-- ==== Sys2Proof/Word.lean ====
section
/-! DEFINITION. The words of the CH-24: bytes, 16-bit counts and 32-bit counts. -/

namespace Sys2Proof

/-- A byte of a frame, a cell or a register. -/
abbrev Byte := BitVec 8

/-- A two-byte count that wraps (the version, R2; the pass count, R167; the header error count, R72). -/
abbrev Half := BitVec 16

/-- A reading of the seconds counter (R1). -/
abbrev Seconds := BitVec 32

/-- A millisecond timer (R1's chapter): stopped, or running with the milliseconds that remain. -/
abbrev Timer := Option Nat

end Sys2Proof
end

