-- ==== Sys2Proof/Syntax.lean ====
section
/-! DEFINITION. The commands of the CH-24: one constructor for each row of spec/opcode_table.json, with the operands
that reach the part with it. -/

namespace Sys2Proof

/-- The three client ports, in the order of R193's encoding (SUP 0, TRK 1, TST 2). -/
inductive Port where
  | sup | trk | tst
  deriving DecidableEq, Repr

/-- The two test buses (R102). -/
inductive BusId where
  | bus0 | bus1
  deriving DecidableEq, Repr

/-- A pair number, 0 to 23. -/
abbrev PairIx := Fin 24

/-- A cable block, 0 to 3. -/
abbrev BlockIx := Fin 4

/-- A move slot of the relay unit (R86). -/
abbrev SlotIx := Fin 4

/-- A sense input, SNS0 to SNS11 (R142). -/
abbrev SenseIx := Fin 12

/-- What a line card offers when it asserts LOFR: the kind byte, the length byte and the bytes that follow (R60, R63). -/
structure CardOffer where
  kind : Byte
  length : Byte
  payload : Vector Byte 64
  deriving DecidableEq, Repr

/-- What the addressed card shows in a poll: LRDY, and LOFR with its offer (R61 to R63). A slot with no card shows
neither (R61). -/
structure CardSignals where
  lrdy : Bool
  offer : Option CardOffer
  deriving DecidableEq, Repr

/-- The values the front end has formed at the end of a stage (R120 to R122): V, ohms, kilohms and nanofarads. The
stage reads its own of them. The front end gives 255 for any higher foreign voltage (R121). -/
structure Readings where
  foreign : Byte
  loop : Nat
  leakA : Nat
  leakB : Nat
  cap : Nat
  deriving DecidableEq, Repr

/-- A register write that changes nothing (R180, R184): one at address 3, or a control byte at address 1 that names
neither request. -/
inductive IgnoredWrite where
  | address3 (b : Byte)
  | control (b : Byte)
  deriving DecidableEq, Repr

/-- The commands (steps) of the CH-24, one constructor for each row of spec/opcode_table.json, in the table's order.
The rows of the command code table (R197) carry the port that passed the command and its argument bytes, as the port
unit passes them (R182). A row at which transmission may become permitted carries the level of the TREADY pin (R80). -/
inductive Instr where
  | fullReset
  | secondsTick
  | frameByteWrite (p : Port) (b : Byte)
  | gapTimerExpiry (p : Port)
  | answerByteRead (p : Port)
  | statusRead (p : Port)
  | frameAbort (p : Port)
  | portClear (p : Port)
  | takeEvent (p : Port)
  | clearEvent (p : Port) (b : Byte)
  | noticeRead (p : Port)
  | registerWriteIgnored (p : Port) (w : IgnoredWrite)
  | readPair (p : Port) (args : List Byte)
  | nextNotice (p : Port) (args : List Byte)
  | provision (p : Port) (args : List Byte)
  | setTier (p : Port) (args : List Byte)
  | rebuildPair (p : Port) (args : List Byte)
  | readQueue (p : Port) (args : List Byte)
  | setQueueLimits (p : Port) (args : List Byte)
  | flushQueue (p : Port) (args : List Byte)
  | readPool (p : Port) (args : List Byte)
  | readTrunk (p : Port) (args : List Byte)
  | setTrunk (p : Port) (args : List Byte) (tready : Bool)
  | isolate (p : Port) (args : List Byte)
  | unisolate (p : Port) (args : List Byte)
  | setRelayTiming (p : Port) (args : List Byte)
  | readRelays (p : Port) (args : List Byte)
  | claimBus (p : Port) (args : List Byte)
  | releaseBus (p : Port) (args : List Byte)
  | selectPair (p : Port) (args : List Byte)
  | deselect (p : Port) (args : List Byte)
  | forceRelease (p : Port) (args : List Byte)
  | setBusTiming (p : Port) (args : List Byte)
  | readBus (p : Port) (args : List Byte)
  | measure (p : Port) (args : List Byte)
  | verify (p : Port) (args : List Byte)
  | tone (p : Port) (args : List Byte)
  | stop (p : Port) (args : List Byte)
  | readResult (p : Port) (args : List Byte)
  | readProfile (p : Port) (args : List Byte)
  | overlayOpen (p : Port) (args : List Byte)
  | overlayWrite (p : Port) (args : List Byte)
  | overlayArm (p : Port) (args : List Byte)
  | overlayRetire (p : Port) (args : List Byte)
  | overlayClose (p : Port) (args : List Byte)
  | setSense (p : Port) (args : List Byte)
  | readSense (p : Port) (args : List Byte)
  | setPowerPolicy (p : Port) (args : List Byte)
  | readPower (p : Port) (args : List Byte)
  | readIntegrity (p : Port) (args : List Byte)
  | ackFault (p : Port) (args : List Byte)
  | tableRead (p : Port) (args : List Byte)
  | setScrub (p : Port) (args : List Byte)
  | resetPart (p : Port) (args : List Byte)
  | clearCorrections (p : Port) (args : List Byte)
  | setEvents (p : Port) (args : List Byte)
  | setMask (p : Port) (args : List Byte)
  | byteArrival (b : Byte) (tready : Bool)
  | silenceTimerExpiry
  | treadyRise
  | transmitDone
  | doneTimerExpiry
  | pollTimerExpiry (card : CardSignals)
  | settleTimerExpiry (slot : SlotIx)
  | guardTimerExpiry (block : BlockIx)
  | leaseExpiry (k : BusId)
  | holdExpiry (k : BusId)
  | stageTimerExpiry (r : Readings)
  | toneExpiry (k : BusId)
  | sampleTimerExpiry (i : SenseIx) (pin : Bool) (tready : Bool)
  | graceTimerExpiry
  | restoreTimerExpiry
  | stepTimerExpiry
  | scrubTimerExpiry
  deriving DecidableEq, Repr

/-- The commands of the command code table (R197): what a frame may name. -/
inductive Cmd where
  | readPair | nextNotice | provision | setTier | rebuildPair
  | readQueue | setQueueLimits | flushQueue | readPool
  | readTrunk | setTrunk
  | isolate | unisolate | setRelayTiming | readRelays
  | claimBus | releaseBus | selectPair | deselect | forceRelease | setBusTiming | readBus
  | measure | verify | tone | stop | readResult | readProfile
  | overlayOpen | overlayWrite | overlayArm | overlayRetire | overlayClose
  | setSense | readSense | setPowerPolicy | readPower
  | readIntegrity | ackFault | tableRead | setScrub | resetPart | clearCorrections
  | setEvents | setMask
  deriving DecidableEq, Repr

/-- The command, port and argument bytes of a row of the command code table; none for the other rows. -/
def Instr.passing : Instr → Option (Cmd × Port × List Byte)
  | .readPair p a => some (.readPair, p, a)
  | .nextNotice p a => some (.nextNotice, p, a)
  | .provision p a => some (.provision, p, a)
  | .setTier p a => some (.setTier, p, a)
  | .rebuildPair p a => some (.rebuildPair, p, a)
  | .readQueue p a => some (.readQueue, p, a)
  | .setQueueLimits p a => some (.setQueueLimits, p, a)
  | .flushQueue p a => some (.flushQueue, p, a)
  | .readPool p a => some (.readPool, p, a)
  | .readTrunk p a => some (.readTrunk, p, a)
  | .setTrunk p a _ => some (.setTrunk, p, a)
  | .isolate p a => some (.isolate, p, a)
  | .unisolate p a => some (.unisolate, p, a)
  | .setRelayTiming p a => some (.setRelayTiming, p, a)
  | .readRelays p a => some (.readRelays, p, a)
  | .claimBus p a => some (.claimBus, p, a)
  | .releaseBus p a => some (.releaseBus, p, a)
  | .selectPair p a => some (.selectPair, p, a)
  | .deselect p a => some (.deselect, p, a)
  | .forceRelease p a => some (.forceRelease, p, a)
  | .setBusTiming p a => some (.setBusTiming, p, a)
  | .readBus p a => some (.readBus, p, a)
  | .measure p a => some (.measure, p, a)
  | .verify p a => some (.verify, p, a)
  | .tone p a => some (.tone, p, a)
  | .stop p a => some (.stop, p, a)
  | .readResult p a => some (.readResult, p, a)
  | .readProfile p a => some (.readProfile, p, a)
  | .overlayOpen p a => some (.overlayOpen, p, a)
  | .overlayWrite p a => some (.overlayWrite, p, a)
  | .overlayArm p a => some (.overlayArm, p, a)
  | .overlayRetire p a => some (.overlayRetire, p, a)
  | .overlayClose p a => some (.overlayClose, p, a)
  | .setSense p a => some (.setSense, p, a)
  | .readSense p a => some (.readSense, p, a)
  | .setPowerPolicy p a => some (.setPowerPolicy, p, a)
  | .readPower p a => some (.readPower, p, a)
  | .readIntegrity p a => some (.readIntegrity, p, a)
  | .ackFault p a => some (.ackFault, p, a)
  | .tableRead p a => some (.tableRead, p, a)
  | .setScrub p a => some (.setScrub, p, a)
  | .resetPart p a => some (.resetPart, p, a)
  | .clearCorrections p a => some (.clearCorrections, p, a)
  | .setEvents p a => some (.setEvents, p, a)
  | .setMask p a => some (.setMask, p, a)
  | .fullReset | .secondsTick | .frameByteWrite _ _ | .gapTimerExpiry _ | .answerByteRead _ | .statusRead _
  | .frameAbort _ | .portClear _ | .takeEvent _ | .clearEvent _ _ | .noticeRead _ | .registerWriteIgnored _ _
  | .byteArrival _ _ | .silenceTimerExpiry | .treadyRise | .transmitDone | .doneTimerExpiry | .pollTimerExpiry _
  | .settleTimerExpiry _ | .guardTimerExpiry _ | .leaseExpiry _ | .holdExpiry _ | .stageTimerExpiry _
  | .toneExpiry _ | .sampleTimerExpiry _ _ _ | .graceTimerExpiry | .restoreTimerExpiry | .stepTimerExpiry
  | .scrubTimerExpiry => none

end Sys2Proof
end

