-- ==== Sys2Proof/Decode.lean ====
section
/-! DEFINITION. The commands that words spell by the table's bits: none, since no row of spec/opcode_table.json gives
bits. A frame's bytes are decoded where they arrive (Machine/Operands.lean: cmdOfCode, writeRow, readRow). -/

namespace Sys2Proof

/-- No row of the table gives bits, so no word spells a command. -/
def decodeTableWord (_nbits _w : Nat) : Option Instr := none

end Sys2Proof
end

