-- ==== Sys2Proof/Config.lean ====
section
/-! DEFINITION. What an implementation of the CH-24 fixes: the values the spec leaves open, as constants with
no body (free values), and the fixed times the spec states. -/

namespace Sys2Proof.Config

/-- FREE VALUE (DESIGN CHOICE, log 4): the 7 check bits of a good word (R167 gives their number and not the code). -/
opaque checkBits : BitVec 32 → BitVec 7

/-- FREE VALUE (DESIGN CHOICE, log 5): the 32 data bits of the table RAM word at an index, given its fields as numbers
(R3, R25, R29 and R125 name the fields of each word and no rule gives their bits; the two record words of an overlay
channel, which R194 lays out, do not use it). -/
opaque tableBits : Nat → List Nat → BitVec 32

/-- FREE VALUE (DESIGN CHOICE, log 8): the number from which the payload length standing in a link word rewritten
BROKEN is formed (R40 writes BROKEN and states no length); applied to the counter `Store.fresh`. -/
opaque lostLength : Nat → Nat

/-- FREE VALUE (DESIGN CHOICE, log 9): whether a remaining time that is no whole number of seconds is shown as the
second above it (R99 and R139 show seconds, and no rule gives the rounding). -/
opaque secondsRoundUp : Nat → Bool

/-- The gap timer, in ms (R180). -/
def gapMs : Nat := 50

/-- The done timer, in ms (R81). -/
def doneMs : Nat := 50

/-- The silence timer, in ms (R72, R78). -/
def silenceMs : Nat := 100

/-- The foreign limit of MEASURE and TONE, in V (R121). -/
def foreignLimit : Nat := 60

/-- The limit and the high mark a descriptor takes at full reset and at a break by a descriptor word (R37, R48). -/
def defaultLimit : Nat := 64

/-- See `defaultLimit`. -/
def defaultHighMark : Nat := 48

end Sys2Proof.Config
end

