-- ==== Sys2Proof/Machine/Blocks.lean ====
section
/-! DEFINITION. The state of each block of the CH-24, as plain data: what the spec's "keeps the following state" tables
name, block by block. -/

namespace Sys2Proof.Machine

/-- One thing for each client port. -/
structure PerPort (α : Type) where
  sup : α
  trk : α
  tst : α
  deriving DecidableEq, Repr

/-- One thing for each test bus. -/
structure PerBus (α : Type) where
  bus0 : α
  bus1 : α
  deriving DecidableEq, Repr

/-! ### Table RAM words (R167) -/

/-- The bits of a table RAM word that have been upset since it was last written, numbered 0 to 31 in the data bits and
32 to 38 in the check bits. The second of two is numbered among the 38 bits other than the first, so the two differ.
More than two are outside R167 (log 6). -/
inductive Upset where
  | none
  | single (bit : Fin 39)
  | double (bit : Fin 39) (other : Fin 38)
  deriving DecidableEq, Repr

/-- A protected word of table RAM: what was last written, and the bits upset since. -/
structure Protected (α : Type) where
  val : α
  upset : Upset
  deriving DecidableEq, Repr

/-- The outcomes of a check (R167). -/
inductive CheckOutcome where
  | good | corrected | uncorrectable
  deriving DecidableEq, Repr

/-- The areas of table RAM (R167). -/
inductive Area where
  | pair | descriptor | generation | owner | link | overlay
  deriving DecidableEq, Repr

/-! ### Pair table (R2, R3, R16) -/

inductive Service where
  | disabled | active | suspended
  deriving DecidableEq, Repr

/-- A verdict of a last-test summary or result record (R6, R123). -/
inductive Verdict where
  | none | pass | fail | error
  deriving DecidableEq, Repr

/-- The first stored word of a pair (R3). -/
structure ServiceWord where
  service : Service
  tier : Fin 4
  weight : Fin 16
  version : Half
  deriving DecidableEq, Repr

/-- The second stored word of a pair (R3). -/
structure SummaryWord where
  verdict : Verdict
  profile : Option (Fin 16)
  deriving DecidableEq, Repr

/-- The stored part of a pair: three table RAM words (R3). -/
structure StoredPair where
  first : Protected ServiceWord
  second : Protected SummaryWord
  third : Protected Seconds
  deriving DecidableEq, Repr

structure PairTable where
  stored : Vector StoredPair 24
  /-- The notice queues, oldest first (R16). -/
  notices : PerPort (List PairIx)
  deriving DecidableEq, Repr

/-! ### Queue engine (R25 to R29, R35, R36) -/

/-- A cell of the cell store, 0 to 2047. -/
abbrev CellIx := Fin 2048

/-- A queue number: n for UPQ[n], 24+n for DNQ[n] (R29). -/
abbrev QueueIx := Fin 48

/-- An owner word (R25). -/
inductive Owner where
  | free (gen : Byte)
  | held
  | queue (q : QueueIx) (gen : Byte)
  | retired
  deriving DecidableEq, Repr

/-- What a link word names (R25). -/
inductive Next where
  | cell (c : CellIx)
  | fin
  | broken
  deriving DecidableEq, Repr

/-- A link word: the next cell, END or BROKEN, and the payload length (R25). -/
structure Link where
  next : Next
  len : Nat
  deriving DecidableEq, Repr

/-- The fields of a queue descriptor (R29); END is none. -/
structure Descriptor where
  head : Option CellIx
  tail : Option CellIx
  count : Nat
  limit : Nat
  highMark : Nat
  leadCount : Nat
  leadTail : Option CellIx
  deriving DecidableEq, Repr

/-- A descriptor in table RAM: its fields, and the upset bits of each of its three words (R29, R167). -/
structure DescriptorWords where
  fields : Descriptor
  upset0 : Upset
  upset1 : Upset
  upset2 : Upset
  deriving DecidableEq, Repr

/-- The four holds (R28). -/
inductive HoldName where
  | trunkTx | trunkRx | lineIn | lineOut
  deriving DecidableEq, Repr

structure Holds where
  trunkTx : Option CellIx
  trunkRx : Option CellIx
  lineIn : Option CellIx
  lineOut : Option CellIx
  deriving DecidableEq, Repr

structure Store where
  descriptors : Vector DescriptorWords 48
  generations : Vector (Protected Byte) 48
  freeGeneration : Protected Byte
  /-- Owner words that differ from their full-reset word, by cell number, rising. -/
  owners : List (Nat × Protected Owner)
  /-- Link words that differ from their full-reset word, by cell number, rising. -/
  links : List (Nat × Protected Link)
  /-- Payload bytes that are not 0, by address 64c + i, rising (Host.Cell). -/
  payload : List (Nat × Byte)
  freeHead : Option CellIx
  freeCount : Nat
  /-- The retired set (R25), newest first; its size is the retired count (R36). -/
  retired : List CellIx
  holds : Holds
  congested : Vector Bool 48
  poolLow : Bool
  /-- The published stranded count (R41). -/
  stranded : Nat
  /-- The cells reclaimed during the pass in progress (R41). -/
  passReclaimed : Nat
  /-- The model's own: how many free values have been drawn (log 8). -/
  fresh : Nat
  deriving DecidableEq, Repr

/-! ### Share scheduler (R50) and line bus controller (R60) -/

structure Scheduler where
  credit : Vector (Fin 16) 24
  urgentPtr : PairIx
  tier0Ptr : PairIx
  roundPtr : PairIx
  eligible : Vector Bool 24
  deriving DecidableEq, Repr

/-- What a delivery puts on the line bus (R60, R62). -/
structure Delivery where
  slot : PairIx
  kind : Byte
  length : Byte
  payload : List Byte
  deriving DecidableEq, Repr

structure LineBus where
  pollPtr : PairIx
  eligible : Vector Bool 24
  /-- The activity of each pair; never is none (R67). -/
  activity : Vector (Option Seconds) 24
  /-- The slot last addressed on LSLOT4–0 (R61). -/
  slot : Option PairIx
  /-- The last delivery made (R62). -/
  delivered : Option Delivery
  deriving DecidableEq, Repr

/-! ### Trunk interface (R72, R79, R81) -/

inductive Delineation where
  | search | confirm | locked
  deriving DecidableEq, Repr

/-- The kinds of a good header (R71). -/
inductive HeaderKind where
  | ordinary | urgent | idle
  deriving DecidableEq, Repr

/-- A header found good (R71). -/
structure Header where
  tag : Fin 32
  kind : HeaderKind
  length : Nat
  deriving DecidableEq, Repr

/-- The current cell: the header last found good, with whether its payload is being kept (R72). -/
structure CurrentCell where
  header : Header
  kept : Bool
  deriving DecidableEq, Repr

/-- The cell being transmitted: its pair and kind, and its 67 bytes (R81). -/
structure Sending where
  pair : PairIx
  urgent : Bool
  length : Nat
  bytes : List Byte
  deriving DecidableEq, Repr

structure Trunk where
  delineation : Delineation
  /-- The last 0 to 3 bytes received in SEARCH, oldest first. -/
  window : List Byte
  position : Nat
  /-- The bytes so far received of the header expected in CONFIRM or LOCKED, oldest first (log 27). -/
  headerBytes : List Byte
  current : Option CurrentCell
  confirmCount : Nat
  badRun : Nat
  silence : Timer
  headerErrors : Half
  lockLosses : Byte
  transmitEnable : Bool
  permitted : Bool
  sending : Option Sending
  doneTimer : Timer
  doneTimeouts : Byte
  deriving DecidableEq, Repr

/-! ### Relay unit (R85 to R87, R92) -/

inductive RelayPos where
  | unknown | through | bus0 | bus1 | isolated
  deriving DecidableEq, Repr

inductive Guard where
  | none | surge | manual
  deriving DecidableEq, Repr

/-- The requester of a move (R87). -/
inductive Requester where
  | testBus | relayUnit
  deriving DecidableEq, Repr

/-- An accepted level of a sense input (R142). -/
inductive Level where
  | low | high | unknown
  deriving DecidableEq, Repr

/-- The relay, guard and drive setting of one pair (R85, R86, R92). The drive is none while no move has driven the
relay since power-on (log 25). -/
structure RelayPair where
  pos : RelayPos
  moving : Bool
  target : RelayPos
  guard : Guard
  drive : Option RelayPos
  deriving DecidableEq, Repr

/-- A move in flight, with the ms that remain of its settle timer (R86). -/
structure Move where
  pair : PairIx
  target : RelayPos
  requester : Requester
  remaining : Nat
  deriving DecidableEq, Repr

/-- A waiting move request (R87); its class follows from its target. -/
structure Entry where
  pair : PairIx
  target : RelayPos
  requester : Requester
  deriving DecidableEq, Repr

structure Relay where
  pairs : Vector RelayPair 24
  slots : Vector (Option Move) 4
  /-- The guard section of the relay queue, oldest first; it stands ahead of the normal section (R87). -/
  guardSection : List Entry
  /-- The normal section of the relay queue, oldest first. -/
  normalSection : List Entry
  guardTimers : Vector Timer 4
  surgeLevels : Vector Level 4
  settleTime : Nat
  guardTime : Nat
  deriving DecidableEq, Repr

/-! ### Test bus unit (R102) -/

inductive BusState where
  | free | held | selecting | ready | busy | deselecting
  deriving DecidableEq, Repr

structure BusRecord where
  state : BusState
  holder : Option Port
  wait : List Port
  pair : Option PairIx
  departing : Option PairIx
  lease : Timer
  hold : Timer
  deriving DecidableEq, Repr

structure TestBus where
  bus : PerBus BusRecord
  leaseSetting : Nat
  holdSetting : Nat
  activityWindow : Nat
  deriving DecidableEq, Repr

/-! ### Measurement unit (R118, R123 to R125) -/

/-- A set of LOOP, LEAK and CAP (R118, R124). -/
structure MeasSet where
  loop : Bool
  leak : Bool
  cap : Bool
  deriving DecidableEq, Repr

inductive Stage where
  | foreign | loop | leak | cap
  deriving DecidableEq, Repr

/-- A reading: a value, or OVER (R122). -/
inductive Reading where
  | value (n : Nat)
  | over
  deriving DecidableEq, Repr

/-- The first four bytes of a profile record (R124, R194), held in an overlay channel's second table RAM word. -/
structure ProfileLow where
  set : MeasSet
  loopMax : Byte
  leakMin : Half
  deriving DecidableEq, Repr

/-- The last four bytes of a profile record (R124, R194), held in an overlay channel's third table RAM word. -/
structure ProfileHigh where
  capMin : Byte
  capMax : Byte
  foreignMax : Byte
  number : Fin 16
  deriving DecidableEq, Repr

/-- A profile record (R124). -/
structure Profile where
  low : ProfileLow
  high : ProfileHigh
  deriving DecidableEq, Repr

/-- Where an effective profile comes from (R123, R126). -/
inductive ProfileSource where
  | rom
  | channel (c : Fin 4)
  deriving DecidableEq, Repr

/-- The command a request or result record is for (R118, R123). -/
inductive TestCmd where
  | select | measure | verify | tone
  deriving DecidableEq, Repr

/-- What a request carries of its command (R118): a VERIFY its profile copy with its source, a TONE its duration. -/
inductive TestJob where
  | measure
  | verify (copy : Profile) (source : ProfileSource)
  | tone (seconds : Nat)
  deriving DecidableEq, Repr

/-- A request in the FIFO (R118). -/
structure TestRequest where
  bus : BusId
  pair : PairIx
  job : TestJob
  set : MeasSet
  deriving DecidableEq, Repr

inductive ResultStatus where
  | none | running | done | aborted
  deriving DecidableEq, Repr

inductive ErrorKind where
  | foreign | overRange | surge | power | stopped | preempted | profile | poisoned | fault
  deriving DecidableEq, Repr

/-- The verdict flags (R123, R134). -/
structure VerdictFlags where
  loopHigh : Bool
  leakALow : Bool
  leakBLow : Bool
  capLow : Bool
  capHigh : Bool
  foreignHigh : Bool
  deriving DecidableEq, Repr

/-- The result record of a bus (R123). -/
structure ResultRecord where
  command : Option TestCmd
  pair : Option PairIx
  status : ResultStatus
  error : Option ErrorKind
  set : MeasSet
  profile : Option (Fin 16 × ProfileSource)
  foreign : Option Byte
  loop : Option Reading
  leakA : Option Reading
  leakB : Option Reading
  cap : Option Reading
  flags : VerdictFlags
  verdict : Verdict
  closedAt : Option Seconds
  deriving DecidableEq, Repr

inductive ChannelState where
  | free | loading | armed | clearing
  deriving DecidableEq, Repr

/-- An overlay channel (R125): two latches and three table RAM words. -/
structure Channel where
  state : ChannelState
  poisoned : Bool
  target : Protected (Option (Fin 16))
  low : Protected ProfileLow
  high : Protected ProfileHigh
  deriving DecidableEq, Repr

structure Measurement where
  fifo : List TestRequest
  /-- The stage of the front request; IDLE is none (R118). -/
  stage : Option Stage
  stageTimer : Timer
  tones : PerBus Timer
  results : PerBus ResultRecord
  channels : Vector Channel 4
  /-- The setup last sent to the front end: idle, or a bus and a stage (R118). -/
  setup : Option (BusId × Stage)
  deriving DecidableEq, Repr

/-! ### Sense unit (R143) -/

/-- The sample periods, in ms (R143). -/
inductive SamplePeriod where
  | ms1 | ms4 | ms16 | ms64
  deriving DecidableEq, Repr

inductive Trigger where
  | rising | falling | both | high | low
  deriving DecidableEq, Repr

/-- A sample run: a candidate level with a count of 1 or 2 (R143). A level of a sample is true for HIGH. -/
structure SampleRun where
  level : Bool
  second : Bool
  deriving DecidableEq, Repr

structure SenseInput where
  filter : Bool
  period : SamplePeriod
  trigger : Trigger
  timer : Nat
  lastSample : Option Bool
  run : Option SampleRun
  accepted : Level
  deriving DecidableEq, Repr

/-! ### Power unit (R152) -/

inductive PowerMode where
  | start | mains | bridge | battery | low | critical | return
  deriving DecidableEq, Repr

structure PowerPair where
  tier : Fin 4
  service : Service
  frozen : Bool
  powered : Bool
  line : Bool
  deriving DecidableEq, Repr

structure Power where
  mode : PowerMode
  modeSince : Seconds
  floor : Nat
  mainsLevel : Level
  lowLevel : Level
  criticalLevel : Level
  thermalLevel : Level
  graceTimer : Timer
  restoreTimer : Timer
  stepTimer : Timer
  graceTime : Nat
  restoreDelay : Nat
  stepInterval : Nat
  pairs : Vector PowerPair 24
  deriving DecidableEq, Repr

/-! ### Integrity unit (R167) -/

inductive ScrubGate where
  | none | waiting | inPass | satisfied
  deriving DecidableEq, Repr

inductive HoldKind where
  | generation | second
  deriving DecidableEq, Repr

/-- Where and when an uncorrectable error was taken (R167); the area is that of the index. -/
structure ErrorRecord where
  index : Nat
  time : Seconds
  deriving DecidableEq, Repr

structure Integrity where
  poisoned : Vector Bool 24
  corrections : Byte
  pending : Option ErrorRecord
  gate : ScrubGate
  faultHold : Bool
  holdCause : Option (HoldKind × ErrorRecord)
  scrubInterval : Nat
  scrubTimer : Timer
  cursor : Nat
  passCount : Half
  deriving DecidableEq, Repr

/-! ### Port units (R180) and event unit (R187) -/

inductive PortState where
  | idle | collecting | working | answer
  deriving DecidableEq, Repr

/-- The frame buffer (R180): code and count are none until they have arrived. -/
structure Frame where
  code : Option Byte
  count : Option Nat
  args : List Byte
  deriving DecidableEq, Repr

/-- The answer buffer with its read position (R180). -/
structure AnswerBuffer where
  bytes : List Byte
  pos : Nat
  deriving DecidableEq, Repr

/-- A command passed to its owner and not yet taken (R182). -/
structure PassedCommand where
  cmd : Cmd
  args : List Byte
  deriving DecidableEq, Repr

structure PortUnit where
  state : PortState
  frame : Frame
  answer : Option AnswerBuffer
  abortMark : Bool
  overrun : Bool
  gap : Bool
  gapTimer : Timer
  takeLatch : Option Byte
  clearLatch : Option Byte
  /-- The model's own: the command this port has passed and its owner has not yet taken. -/
  passed : Option PassedCommand
  /-- The byte the last register read of this port returned on its data pins. -/
  dataOut : Byte
  deriving DecidableEq, Repr

structure EventPort where
  enable : Vector Bool 8
  level : Vector (Fin 8) 8
  mask : Fin 9
  pending : Vector Byte 8
  deriving DecidableEq, Repr

/-! ### Requests inside one event -/

/-- What one block sends another inside an event, taken before the event ends (R2): the aborts of R112 and R113 that
a table error causes, and the relay unit's reports to the test bus unit (R90). A SUPERSEDED report changes nothing at
the test bus unit (R105, R109), and a report of the relay unit to itself changes nothing (R90): neither is held. -/
inductive Request where
  | poisonAbort (n : PairIx)
  | faultAbort
  | relayDone (n : PairIx) (pos : RelayPos)
  | departure (n : PairIx) (k : BusId)
  deriving DecidableEq, Repr

end Sys2Proof.Machine
end

