-- ==== Sys2Proof/Machine/Bytes.lean ====
section
/-! DEFINITION. How quantities stand in bytes (R193): most significant byte first, flags as single bytes. -/

namespace Sys2Proof.Machine

/-- A number in one byte. -/
def byte (n : Nat) : Byte := BitVec.ofNat 8 n

/-- A number in two bytes, most significant first (R193). -/
def bytes2 (n : Nat) : List Byte := [byte (n / 256), byte n]

/-- A number in three bytes, most significant first (R193). -/
def bytes3 (n : Nat) : List Byte := [byte (n / 65536), byte (n / 256), byte n]

/-- A number in four bytes, most significant first (R193). -/
def bytes4 (n : Nat) : List Byte := [byte (n / 16777216), byte (n / 65536), byte (n / 256), byte n]

/-- A reading of the seconds counter takes four bytes (R193). -/
def bytesSeconds (t : Seconds) : List Byte := bytes4 t.toNat

/-- A yes or no item, an OFF or ON item (R193). -/
def flagByte (b : Bool) : Byte := if b then 1 else 0

/-- The value of a two-byte quantity, most significant byte first (R193). -/
def wide (hi lo : Byte) : Half := hi ++ lo

/-- FFh, the reading of a one-byte field that is none (R194). -/
def noneByte : Byte := 0xFF

/-- A byte with one bit set. -/
def bitByte (i : Nat) : Byte := 1 <<< i

/-- A flag as a bit of a byte (R194). -/
def bitOf (b : Bool) (i : Nat) : Byte := if b then bitByte i else 0

/-- A cell field: two bytes, FFFFh for END or none (R193). -/
def bytesCell : Option CellIx → List Byte
  | some c => bytes2 c.val
  | none => [0xFF, 0xFF]

/-- A timer's remaining time as a number; a stopped timer reads 0 (R193). -/
def timerMs : Timer → Nat
  | some ms => ms
  | none => 0

/-- A time in ms shown in seconds; between two whole seconds the rounding is a free value (log 9). -/
def secondsShown (ms : Nat) : Nat :=
  if ms % 1000 = 0 then ms / 1000 else ms / 1000 + (if Config.secondsRoundUp ms then 1 else 0)

end Sys2Proof.Machine
end

