-- ==== Sys2Proof/Machine/Operands.lean ====
section
/-! DEFINITION. Operand forms: the command code table, which ports may issue a command, the argument bytes of a frame
(omitted, partly present, surplus), the encodings of enumerated arguments, and the register accesses of a port. -/

namespace Sys2Proof.Machine

/-! ### The command code table (R197) and the privileges (R185) -/

/-- The code of a command (R197). -/
def cmdCode : Cmd → Byte
  | .readPair => 0x01 | .nextNotice => 0x02 | .provision => 0x03 | .setTier => 0x04 | .rebuildPair => 0x05
  | .readQueue => 0x10 | .setQueueLimits => 0x11 | .flushQueue => 0x12 | .readPool => 0x13
  | .readTrunk => 0x18 | .setTrunk => 0x19
  | .isolate => 0x20 | .unisolate => 0x21 | .setRelayTiming => 0x22 | .readRelays => 0x23
  | .claimBus => 0x28 | .releaseBus => 0x29 | .selectPair => 0x2A | .deselect => 0x2B | .forceRelease => 0x2C
  | .setBusTiming => 0x2D | .readBus => 0x2E
  | .measure => 0x30 | .verify => 0x31 | .tone => 0x32 | .stop => 0x33 | .readResult => 0x34 | .readProfile => 0x35
  | .overlayOpen => 0x38 | .overlayWrite => 0x39 | .overlayArm => 0x3A | .overlayRetire => 0x3B | .overlayClose => 0x3C
  | .setSense => 0x40 | .readSense => 0x41
  | .setPowerPolicy => 0x48 | .readPower => 0x49
  | .readIntegrity => 0x50 | .ackFault => 0x51 | .tableRead => 0x52 | .setScrub => 0x53 | .resetPart => 0x54
  | .clearCorrections => 0x55
  | .setEvents => 0x60 | .setMask => 0x61

/-- Every command of the table, in the order of its codes. -/
def allCmds : List Cmd :=
  [.readPair, .nextNotice, .provision, .setTier, .rebuildPair, .readQueue, .setQueueLimits, .flushQueue, .readPool,
   .readTrunk, .setTrunk, .isolate, .unisolate, .setRelayTiming, .readRelays, .claimBus, .releaseBus, .selectPair,
   .deselect, .forceRelease, .setBusTiming, .readBus, .measure, .verify, .tone, .stop, .readResult, .readProfile,
   .overlayOpen, .overlayWrite, .overlayArm, .overlayRetire, .overlayClose, .setSense, .readSense, .setPowerPolicy,
   .readPower, .readIntegrity, .ackFault, .tableRead, .setScrub, .resetPart, .clearCorrections, .setEvents, .setMask]

/-- The command a code byte names, if any (R182, R197). -/
def cmdOfCode (b : Byte) : Option Cmd := allCmds.find? fun c => cmdCode c == b

/-- Whether a port may issue a command (R185). -/
def admits (p : Port) : Cmd → Bool
  | .readPair | .readQueue | .readPool | .readTrunk | .readRelays | .readBus | .readResult | .readProfile
  | .readSense | .readPower | .readIntegrity => true
  | .nextNotice | .claimBus | .releaseBus | .selectPair | .deselect | .measure | .verify | .tone | .stop
  | .setEvents | .setMask => true
  | .provision | .setQueueLimits | .flushQueue | .setTrunk => p == .trk
  | .setTier | .rebuildPair | .isolate | .unisolate | .setRelayTiming | .forceRelease | .setBusTiming
  | .overlayOpen | .overlayWrite | .overlayArm | .overlayRetire | .overlayClose | .setSense | .setPowerPolicy
  | .ackFault | .tableRead | .setScrub | .resetPart | .clearCorrections => p == .sup

/-! ### Arguments (R182) -/

/-- A one-byte argument: the byte at its place, or none when omitted. -/
def arg (args : List Byte) (i : Nat) : Option Byte := args[i]?

/-- A two-byte argument: omitted, only partly present, or given (R182). -/
inductive WideArg where
  | omitted
  | part
  | given (v : Half)
  deriving DecidableEq, Repr

/-- The two-byte argument that begins at a place, most significant byte first (R182, R193). -/
def wideArg (args : List Byte) (i : Nat) : WideArg :=
  match args[i]?, args[i + 1]? with
  | none, _ => .omitted
  | some _, none => .part
  | some hi, some lo => .given (wide hi lo)

/-- The value of an argument given, or the default when omitted. -/
def WideArg.orElse : WideArg → Nat → Nat
  | .given v, _ => v.toNat
  | .omitted, d | .part, d => d

/-- Whether an optional argument is in order: omitted, or naming one of its values. -/
def optionalOk {α : Type} (decode : Byte → Option α) : Option Byte → Bool
  | none => true
  | some b => (decode b).isSome

/-- The value of an optional argument that is in order: the one named, or the default when omitted. -/
def optionalOr {α : Type} (decode : Byte → Option α) (dflt : α) : Option Byte → α
  | none => dflt
  | some b => (decode b).getD dflt

/-! ### Enumerated arguments (R193) and numbers in range -/

def decodeService (b : Byte) : Option Service :=
  if b = 0 then some .disabled else if b = 1 then some .active else if b = 2 then some .suspended else none

/-- NO or YES, OFF or ON (R193). -/
def decodeBool (b : Byte) : Option Bool :=
  if b = 0 then some false else if b = 1 then some true else none

/-- A direction of FLUSH QUEUE (R46, R193). -/
inductive Direction where
  | up | down | both
  deriving DecidableEq, Repr

def decodeDirection (b : Byte) : Option Direction :=
  if b = 0 then some .up else if b = 1 then some .down else if b = 2 then some .both else none

def decodeTrigger (b : Byte) : Option Trigger :=
  if b = 0 then some .rising else if b = 1 then some .falling else if b = 2 then some .both
  else if b = 3 then some .high else if b = 4 then some .low else none

def decodePeriod (b : Byte) : Option SamplePeriod :=
  if b = 1 then some .ms1 else if b = 4 then some .ms4 else if b = 16 then some .ms16
  else if b = 64 then some .ms64 else none

/-- A measurement set: bit 0 LOOP, bit 1 LEAK, bit 2 CAP; bits 7 to 3 name something other (R193). -/
def decodeSet (b : Byte) : Option MeasSet :=
  if b &&& 0xF8 = 0 then some ⟨b.getLsbD 0, b.getLsbD 1, b.getLsbD 2⟩ else none

/-- A number below a bound. -/
def decodeFin (n : Nat) (b : Byte) : Option (Fin n) :=
  if h : b.toNat < n then some ⟨b.toNat, h⟩ else none

/-- A number within a range, both ends included. -/
def decodeRange (lo hi : Nat) (b : Byte) : Option Nat :=
  if lo ≤ b.toNat ∧ b.toNat ≤ hi then some b.toNat else none

def decodePair (b : Byte) : Option PairIx := decodeFin 24 b

def decodeBus (b : Byte) : Option BusId :=
  if b = 0 then some .bus0 else if b = 1 then some .bus1 else none

/-- A weight, 1 to 15 (R5, R21). -/
def decodeWeight (b : Byte) : Option (Fin 16) := if b = 0 then none else decodeFin 16 b

/-! ### Encodings of items (R193, R194) -/

def encodeService : Service → Byte
  | .disabled => 0 | .active => 1 | .suspended => 2

def encodePort : Port → Byte
  | .sup => 0 | .trk => 1 | .tst => 2

def encodeHolder : Option Port → Byte
  | some p => encodePort p
  | none => noneByte

def encodeBusState : BusState → Byte
  | .free => 0 | .held => 1 | .selecting => 2 | .ready => 3 | .busy => 4 | .deselecting => 5

def encodeMode : PowerMode → Byte
  | .start => 0 | .mains => 1 | .bridge => 2 | .battery => 3 | .low => 4 | .critical => 5 | .return => 6

def encodeDelineation : Delineation → Byte
  | .search => 0 | .confirm => 1 | .locked => 2

def encodeLevel : Level → Byte
  | .low => 0 | .high => 1 | .unknown => 2

/-- A sampled level, FFh when none (R193). -/
def encodeSample : Option Bool → Byte
  | some b => flagByte b
  | none => noneByte

def encodeGate : ScrubGate → Byte
  | .none => 0 | .waiting => 1 | .inPass => 2 | .satisfied => 3

def encodeArea : Area → Byte
  | .pair => 0 | .descriptor => 1 | .generation => 2 | .owner => 3 | .link => 4 | .overlay => 5

def encodeHoldKind : Option HoldKind → Byte
  | none => 0 | some .generation => 1 | some .second => 2

def encodeOutcome : CheckOutcome → Byte
  | .good => 0 | .corrected => 1 | .uncorrectable => 2

def encodePos : RelayPos → Byte
  | .unknown => 0 | .through => 1 | .bus0 => 2 | .bus1 => 3 | .isolated => 4

def encodeGuard : Guard → Byte
  | .none => 0 | .surge => 1 | .manual => 2

def encodeVerdict : Verdict → Byte
  | .none => 0 | .pass => 1 | .fail => 2 | .error => 3

def encodeTestCmd : Option TestCmd → Byte
  | none => 0 | some .select => 1 | some .measure => 2 | some .verify => 3 | some .tone => 4

def encodeStatus : ResultStatus → Byte
  | .none => 0 | .running => 1 | .done => 2 | .aborted => 3

def encodeError : Option ErrorKind → Byte
  | none => 0 | some .foreign => 1 | some .overRange => 2 | some .surge => 3 | some .power => 4
  | some .stopped => 5 | some .preempted => 6 | some .profile => 7 | some .poisoned => 8 | some .fault => 9

def encodeSource : ProfileSource → Byte
  | .rom => 0 | .channel c => byte (c.val + 1)

def encodeChannelState : ChannelState → Byte
  | .free => 0 | .loading => 1 | .armed => 2 | .clearing => 3

def encodeSet (s : MeasSet) : Byte := bitOf s.loop 0 ||| bitOf s.leak 1 ||| bitOf s.cap 2

def encodePeriod : SamplePeriod → Byte
  | .ms1 => 1 | .ms4 => 4 | .ms16 => 16 | .ms64 => 64

def encodeTrigger : Trigger → Byte
  | .rising => 0 | .falling => 1 | .both => 2 | .high => 3 | .low => 4

/-- The sample period in ms. -/
def periodMs : SamplePeriod → Nat
  | .ms1 => 1 | .ms4 => 4 | .ms16 => 16 | .ms64 => 64

/-- The answer codes (R193). -/
inductive AnswerCode where
  | ok | accepted | busy | denied | missing | range | stale | notHolder | held | inUse | guarded | noPair | duplicate
  | power | poisoned | fault | unknown
  deriving DecidableEq, Repr

def encodeAnswer : AnswerCode → Byte
  | .ok => 0x00 | .accepted => 0x01 | .busy => 0x02 | .denied => 0x03 | .missing => 0x04 | .range => 0x05
  | .stale => 0x06 | .notHolder => 0x07 | .held => 0x08 | .inUse => 0x09 | .guarded => 0x0A | .noPair => 0x0B
  | .duplicate => 0x0C | .power => 0x0D | .poisoned => 0x0E | .fault => 0x0F | .unknown => 0x10

def encodePortState : PortState → Byte
  | .idle => 0 | .collecting => 1 | .working => 2 | .answer => 3

/-! ### Register accesses (R180, R184, R195) -/

/-- The row that a write of a byte at an address of a port is (R180): a frame byte, a control byte, an event word, or
nothing. In a control byte bit 0 is FRAME ABORT and bit 1 is PORT CLEAR, which FRAME ABORT adds nothing to (R184, R195). -/
def writeRow (p : Port) (address : Fin 4) (b : Byte) : Instr :=
  match address with
  | 0 => .frameByteWrite p b
  | 1 =>
    if b.getLsbD 1 then .portClear p
    else if b.getLsbD 0 then .frameAbort p
    else .registerWriteIgnored p (.control b)
  | 2 => .clearEvent p b
  | 3 => .registerWriteIgnored p (.address3 b)

/-- The row that a read at an address of a port is (R180). -/
def readRow (p : Port) (address : Fin 4) : Instr :=
  match address with
  | 0 => .answerByteRead p
  | 1 => .statusRead p
  | 2 => .takeEvent p
  | 3 => .noticeRead p

end Sys2Proof.Machine
end

