-- ==== Sys2Proof/Machine/ResetValues.lean ====
section
/-! DEFINITION. The full-reset value of each block's state: the tables of R2, R48, R50, R60, R72, R92, R100, R102,
R118, R143, R152, R179, R180 and R187. The `blank` values are those before homing starts; `homed` values are those at
the end of the reset event, when homing has started pairs 0 to 3 (R91). -/

namespace Sys2Proof.Machine

/-- A word just written: fresh check bits (R167). -/
def Protected.fresh {α : Type} (v : α) : Protected α := ⟨v, .none⟩

/-- The owner word of cell c after a full reset, and of an unlisted index (R48). -/
def ownerDefault (_ : Nat) : Protected Owner := .fresh (.free 0)

/-- The link word of cell c after a full reset, and of an unlisted index (R48). No rule gives the length of a cell that
carries nothing: 1, the least of R25's range (log 8). -/
def linkDefault (c : Nat) : Protected Link :=
  .fresh ⟨if h : c < 2047 then .cell ⟨c + 1, by omega⟩ else .fin, 1⟩

/-- What a payload byte that nothing has written reads as (DESIGN CHOICE, log 7). -/
def payloadDefault (_ : Nat) : Byte := 0

def ServiceWord.reset : ServiceWord := ⟨.disabled, 3, 1, 0⟩
def SummaryWord.reset : SummaryWord := ⟨.none, none⟩
def StoredPair.reset : StoredPair := ⟨.fresh .reset, .fresh .reset, .fresh 0⟩

/-- The pair table at full reset (R23). -/
def PairTable.blank : PairTable := ⟨Vector.replicate 24 .reset, ⟨[], [], []⟩⟩

/-- The pair table after the homing starts of pairs 0 to 3: each start is a step and posts a notice (R23). -/
def PairTable.homed : PairTable where
  stored := Vector.ofFn fun n : Fin 24 =>
    if n.val < 4 then ⟨.fresh { ServiceWord.reset with version := 1 }, .fresh .reset, .fresh 0⟩ else .reset
  notices := ⟨[0, 1, 2, 3], [0, 1, 2, 3], [0, 1, 2, 3]⟩

def Descriptor.empty (limit highMark : Nat) : Descriptor := ⟨none, none, 0, limit, highMark, 0, none⟩

def DescriptorWords.fresh (d : Descriptor) : DescriptorWords := ⟨d, .none, .none, .none⟩

def DescriptorWords.reset : DescriptorWords := .fresh (.empty Config.defaultLimit Config.defaultHighMark)

def Holds.empty : Holds := ⟨none, none, none, none⟩

/-- The cell store at full reset (R48). -/
def Store.reset : Store where
  descriptors := Vector.replicate 48 .reset
  generations := Vector.replicate 48 (.fresh 0)
  freeGeneration := .fresh 0
  owners := []
  links := []
  payload := []
  freeHead := some 0
  freeCount := 2048
  retired := []
  holds := .empty
  congested := Vector.replicate 48 false
  poolLow := false
  stranded := 0
  passReclaimed := 0
  fresh := 0

/-- R59. -/
def Scheduler.reset : Scheduler := ⟨Vector.replicate 24 0, 0, 0, 0, Vector.replicate 24 false⟩

/-- R66. -/
def LineBus.reset : LineBus := ⟨0, Vector.replicate 24 false, Vector.replicate 24 none, none, none⟩

/-- R84. -/
def Trunk.reset : Trunk where
  delineation := .search
  window := []
  position := 0
  headerBytes := []
  current := none
  confirmCount := 0
  badRun := 0
  silence := none
  headerErrors := 0
  lockLosses := 0
  transmitEnable := false
  permitted := false
  sending := none
  doneTimer := none
  doneTimeouts := 0

def RelayPair.blank : RelayPair := ⟨.unknown, false, .unknown, .none, none⟩

/-- The relay unit at full reset, before homing (R100). -/
def Relay.blank : Relay where
  pairs := Vector.replicate 24 .blank
  slots := Vector.replicate 4 none
  guardSection := []
  normalSection := []
  guardTimers := Vector.replicate 4 none
  surgeLevels := Vector.replicate 4 .unknown
  settleTime := 30
  guardTime := 60

/-- The relay unit when homing has started (R91): pairs 0 to 3 moving to THROUGH, pairs 4 to 23 queued in pair order. -/
def Relay.homed : Relay :=
  { Relay.blank with
    pairs := Vector.ofFn fun n : Fin 24 =>
      if n.val < 4 then ⟨.unknown, true, .through, .none, some .through⟩ else .blank
    slots := Vector.ofFn fun i : Fin 4 => some ⟨⟨i.val, by omega⟩, .through, .relayUnit, 30⟩
    normalSection := (List.finRange 24).drop 4 |>.map fun n => ⟨n, .through, .relayUnit⟩ }

/-- R102. -/
def BusRecord.reset : BusRecord := ⟨.free, none, [], none, none, none, none⟩

/-- R117. -/
def TestBus.reset : TestBus := ⟨⟨.reset, .reset⟩, 120, 10, 10⟩

def MeasSet.empty : MeasSet := ⟨false, false, false⟩
def VerdictFlags.empty : VerdictFlags := ⟨false, false, false, false, false, false⟩

/-- A cleared result record (R123, R141). -/
def ResultRecord.cleared : ResultRecord :=
  ⟨none, none, .none, none, .empty, none, none, none, none, none, none, .empty, .none, none⟩

def ProfileLow.zero : ProfileLow := ⟨.empty, 0, 0⟩
def ProfileHigh.zero : ProfileHigh := ⟨0, 0, 0, 0⟩

/-- R141. -/
def Channel.reset : Channel := ⟨.free, false, .fresh none, .fresh .zero, .fresh .zero⟩

/-- R118. -/
def Measurement.reset : Measurement where
  fifo := []
  stage := none
  stageTimer := none
  tones := ⟨none, none⟩
  results := ⟨.cleared, .cleared⟩
  channels := Vector.replicate 4 .reset
  setup := none

/-- R143. -/
def SenseInput.reset : SenseInput := ⟨true, .ms4, .both, 4, none, none, .unknown⟩

def PowerPair.reset : PowerPair := ⟨3, .disabled, false, false, false⟩

/-- R152. -/
def Power.reset : Power where
  mode := .start
  modeSince := 0
  floor := 0
  mainsLevel := .unknown
  lowLevel := .unknown
  criticalLevel := .unknown
  thermalLevel := .unknown
  graceTimer := none
  restoreTimer := none
  stepTimer := none
  graceTime := 30
  restoreDelay := 60
  stepInterval := 5
  pairs := Vector.replicate 24 .reset

/-- R179. -/
def Integrity.reset : Integrity where
  poisoned := Vector.replicate 24 false
  corrections := 0
  pending := none
  gate := .none
  faultHold := false
  holdCause := none
  scrubInterval := 1
  scrubTimer := some 1
  cursor := 0
  passCount := 0

def Frame.empty : Frame := ⟨none, none, []⟩

/-- R180, R192. -/
def PortUnit.reset : PortUnit where
  state := .idle
  frame := .empty
  answer := none
  abortMark := false
  overrun := false
  gap := false
  gapTimer := none
  takeLatch := none
  clearLatch := none
  passed := none
  dataOut := 0

/-- R187: group 0 alone enabled, each level the group's number, mask level 8, nothing pending. -/
def EventPort.reset : EventPort where
  enable := Vector.ofFn fun g : Fin 8 => g.val == 0
  level := Vector.ofFn fun g : Fin 8 => g
  mask := 8
  pending := Vector.replicate 8 0

end Sys2Proof.Machine
end

