-- ==== Sys2Proof/Machine/State.lean ====
section
/-! DEFINITION. The state of the CH-24: its blocks and the queue of waiting commands; the reasons to stop; the state
right after a full reset. -/

namespace Sys2Proof.Machine

/-- Everything inside the part: the state of its blocks. -/
structure Hw where
  /-- Time base (R1). -/
  seconds : Seconds
  /-- Port units (R180). -/
  ports : PerPort PortUnit
  /-- Event unit (R187). -/
  events : PerPort EventPort
  /-- Pair table (R2, R3, R16). -/
  pairTable : PairTable
  /-- Queue engine (R25 to R42). -/
  store : Store
  /-- Share scheduler (R50). -/
  sched : Scheduler
  /-- Line bus controller (R60). -/
  line : LineBus
  /-- Trunk interface (R72, R79, R81). -/
  trunk : Trunk
  /-- Relay unit (R85 to R92). -/
  relay : Relay
  /-- Test bus unit (R102). -/
  testBus : TestBus
  /-- Measurement unit (R118). -/
  meas : Measurement
  /-- Sense unit (R143). -/
  sense : Vector SenseInput 12
  /-- Power unit (R152). -/
  power : Power
  /-- Integrity unit (R167). -/
  integ : Integrity
  /-- The model's own: requests sent in the present event and not yet taken; empty between events (log 12). -/
  requests : List Request
  deriving DecidableEq, Repr

/-- The state of the machine: the part, and the commands that wait for it, first in, first out. -/
structure State where
  hw : Hw
  pending : List Instr
  deriving DecidableEq, Repr

/-- The reasons for which a step can stop with a fault: none. Every rule of the spec that meets an error gives an
answer code or a change of state, and the machine goes on (INVENTORY.md, Faults). -/
inductive Fault where
  deriving DecidableEq, Repr

/-- The reasons for which a step can refuse a command. -/
inductive Refusal where
  /-- Raised by exec's arm of a command that has no meaning yet (no arm has it now). Safe: the machine stops. -/
  | notModelled (mnemonic : String)
  deriving DecidableEq, Repr

/-- The part right after a full reset (R23, R48, R59, R66, R84, R100, R117, R141, R151, R166, R179, R192), homing
started (R91). -/
def Hw.reset : Hw where
  seconds := 0
  ports := ⟨.reset, .reset, .reset⟩
  events := ⟨.reset, .reset, .reset⟩
  pairTable := .homed
  store := .reset
  sched := .reset
  line := .reset
  trunk := .reset
  relay := .homed
  testBus := .reset
  meas := .reset
  sense := Vector.replicate 12 .reset
  power := .reset
  integ := .reset
  requests := []

/-- The machine right after reset: the part after a full reset, and no command waiting. -/
def State.reset : State := ⟨.reset, []⟩

end Sys2Proof.Machine
end

