-- ==== Sys2Proof/Machine/Flags.lean ====
section
/-! DEFINITION. The event flags: the group and bit of each (R189, R195), posting (R187), the condition-based flags
(R17, R148) and INT (R188). -/

namespace Sys2Proof.Machine

def PerPort.get {α : Type} (x : PerPort α) : Port → α
  | .sup => x.sup | .trk => x.trk | .tst => x.tst

def PerPort.set {α : Type} (x : PerPort α) : Port → α → PerPort α
  | .sup, v => { x with sup := v } | .trk, v => { x with trk := v } | .tst, v => { x with tst := v }

def PerBus.get {α : Type} (x : PerBus α) : BusId → α
  | .bus0 => x.bus0 | .bus1 => x.bus1

def PerBus.set {α : Type} (x : PerBus α) : BusId → α → PerBus α
  | .bus0, v => { x with bus0 := v } | .bus1, v => { x with bus1 := v }

/-- The event flags by name (R189's table). -/
inductive EventFlag where
  | faultHold | uncorrectable | corrections
  | mains | batlow | batcrit | mode | floor
  | door | fan | temp | modem | spare
  | lockGained | lockLost | doneTimeout
  | granted (k : BusId) | done (k : BusId) | aborted (k : BusId) | expired (k : BusId) | holdEnd (k : BusId)
  | preempted (k : BusId)
  | poolLow | poolOk | queueBroken | retired | scrubPass
  | notice | surge (b : BlockIx)
  deriving DecidableEq, Repr

/-- The group of a bus's events: 4 for bus 0, 5 for bus 1 (R115). -/
def busGroup : BusId → Fin 8
  | .bus0 => 4 | .bus1 => 5

/-- The group of a flag (R189). -/
def EventFlag.group : EventFlag → Fin 8
  | .faultHold | .uncorrectable | .corrections => 0
  | .mains | .batlow | .batcrit | .mode | .floor => 1
  | .door | .fan | .temp | .modem | .spare => 2
  | .lockGained | .lockLost | .doneTimeout => 3
  | .granted k | .done k | .aborted k | .expired k | .holdEnd k | .preempted k => busGroup k
  | .poolLow | .poolOk | .queueBroken | .retired | .scrubPass => 6
  | .notice | .surge _ => 7

/-- The bit of a flag in its group's flags byte (R195). -/
def EventFlag.bit : EventFlag → Nat
  | .faultHold => 0 | .uncorrectable => 1 | .corrections => 2
  | .mains => 0 | .batlow => 1 | .batcrit => 2 | .mode => 3 | .floor => 4
  | .door => 0 | .fan => 1 | .temp => 2 | .modem => 3 | .spare => 4
  | .lockGained => 0 | .lockLost => 1 | .doneTimeout => 2
  | .granted _ => 0 | .done _ => 1 | .aborted _ => 2 | .expired _ => 3 | .holdEnd _ => 4 | .preempted _ => 5
  | .poolLow => 0 | .poolOk => 1 | .queueBroken => 2 | .retired => 3 | .scrubPass => 4
  | .notice => 0 | .surge b => b.val + 1

/-- The flags byte with one flag in it. -/
def EventFlag.mask (f : EventFlag) : Byte := bitByte f.bit

/-- The flag of each sense input (R142). -/
def senseFlag (i : SenseIx) : EventFlag :=
  match i with
  | 0 => .mains | 1 => .batlow | 2 => .batcrit | 3 => .door | 4 => .fan | 5 => .temp
  | 6 => .surge 0 | 7 => .surge 1 | 8 => .surge 2 | 9 => .surge 3 | 10 => .modem | 11 => .spare

/-- One port's events with a flag set, if its group is enabled there (R187). -/
def EventPort.raise (e : EventPort) (f : EventFlag) : EventPort :=
  if e.enable[f.group] then { e with pending := e.pending.set f.group (e.pending[f.group] ||| f.mask) } else e

/-- Set a flag at one port, if its group is enabled there. -/
def raiseAt (p : Port) (f : EventFlag) (h : Hw) : Hw :=
  { h with events := h.events.set p ((h.events.get p).raise f) }

/-- Post an event: set its flag at every port where the group is enabled (R187). -/
def post (f : EventFlag) (h : Hw) : Hw :=
  { h with events := ⟨h.events.sup.raise f, h.events.trk.raise f, h.events.tst.raise f⟩ }

/-- Whether an input has a level trigger whose condition holds (R148). -/
def levelConditionHolds (x : SenseInput) : Bool :=
  match x.trigger with
  | .high => x.accepted == .high
  | .low => x.accepted == .low
  | .rising | .falling | .both => false

/-- The level-triggered sense flags of a group whose condition holds (R148), as a flags byte. -/
def senseConditions (h : Hw) (g : Fin 8) : Byte :=
  (List.finRange 12).foldl
    (fun acc i => if (senseFlag i).group = g ∧ levelConditionHolds h.sense[i] then acc ||| (senseFlag i).mask else acc) 0

/-- The condition-based flags of a group whose condition holds at a port (R17, R148, R189). -/
def conditionFlags (h : Hw) (p : Port) (g : Fin 8) : Byte :=
  senseConditions h g ||| (if g = 7 ∧ h.pairTable.notices.get p ≠ [] then EventFlag.notice.mask else 0)

/-- Whether a port's INT output is asserted (R188). -/
def EventPort.int (e : EventPort) : Bool :=
  (List.finRange 8).any fun g => e.enable[g] && e.pending[g] != 0 && decide (e.level[g].val < e.mask.val)

/-- The group TAKE EVENT reports: of the enabled groups with pending flags, the one of the lowest level, ties going to
the lower number (R188). -/
def EventPort.firstGroup (e : EventPort) : Option (Fin 8) :=
  (List.finRange 8).foldl
    (fun best g =>
      if e.enable[g] && e.pending[g] != 0 then
        match best with
        | none => some g
        | some b => if e.level[g].val < e.level[b].val then some g else some b
      else best)
    none

end Sys2Proof.Machine
end

