-- ==== Sys2Proof/Machine/Ops.lean ====
section
/-! DEFINITION. The operations that every block shares: table RAM words and their check (R167), the integrity unit's
record of errors and FAULT HOLD (R168 to R174), notices and versions (R14, R16), the two eligibilities (R10, R11). -/

namespace Sys2Proof.Machine

/-! ### Table RAM words (R167) -/

def Upset.outcome : Upset → CheckOutcome
  | .none => .good
  | .single _ => .corrected
  | .double _ _ => .uncorrectable

/-- The word after a checked read: a correction is written back with fresh check bits (R167). -/
def Protected.afterRead {α : Type} (w : Protected α) : Protected α :=
  match w.upset with
  | .single _ => .fresh w.val
  | .none | .double _ _ => w

/-- What the reader receives: nothing usable when the check is UNCORRECTABLE (R167). -/
def Protected.read {α : Type} (w : Protected α) : Option α :=
  match w.upset.outcome with
  | .good | .corrected => some w.val
  | .uncorrectable => none

/-- Word indexes by area (R167). -/
def pairIndex (n : PairIx) (word : Nat) : Nat := 3 * n.val + word
def descriptorIndex (q : QueueIx) (word : Nat) : Nat := 72 + 3 * q.val + word
def generationIndex (q : QueueIx) : Nat := 216 + q.val
def freeGenerationIndex : Nat := 264
def ownerIndex (c : CellIx) : Nat := 265 + c.val
def linkIndex (c : CellIx) : Nat := 2313 + c.val
def overlayIndex (c : Fin 4) (word : Nat) : Nat := 4361 + 3 * c.val + word

/-- The number of table RAM words (R167). -/
def tableWords : Nat := 4373

/-- The area of a word index (R167). -/
def areaOf (i : Nat) : Area :=
  if i < 72 then .pair
  else if i < 216 then .descriptor
  else if i < 265 then .generation
  else if i < 2313 then .owner
  else if i < 4361 then .link
  else .overlay

/-! ### Cable blocks, queues and buses -/

/-- UPQ[n] (R29). -/
def upq (n : PairIx) : QueueIx := ⟨n.val, by omega⟩

/-- DNQ[n] (R29). -/
def dnq (n : PairIx) : QueueIx := ⟨24 + n.val, by omega⟩

/-- The pair whose UPQ a queue number names, if any (R29). -/
def upqPair (q : QueueIx) : Option PairIx := if h : q.val < 24 then some ⟨q.val, h⟩ else none

/-- The pair a queue belongs to (R29). -/
def queuePair (q : QueueIx) : PairIx := ⟨q.val % 24, by omega⟩

/-- The cable block of a pair. -/
def blockOf (n : PairIx) : BlockIx := ⟨n.val / 6, by omega⟩

/-- The pair above, with 0 following 23 (R53). -/
def nextPair (n : PairIx) : PairIx := ⟨(n.val + 1) % 24, by omega⟩

/-- The 24 pairs in pair order with wrap, from a pair on (R53). -/
def pairsFrom (n : PairIx) : List PairIx := (List.finRange 24).map fun i => ⟨(n.val + i.val) % 24, by omega⟩

/-- The relay position of a bus. -/
def busPos : BusId → RelayPos
  | .bus0 => .bus0 | .bus1 => .bus1

/-- A lease or hold setting of 0 stops its timer; any other starts it (R102). -/
def secondsTimer (s : Nat) : Timer := if s = 0 then none else some (s * 1000)

/-! ### The integrity unit (R168, R170, R174) -/

/-- One CORRECTED check (R168). -/
def noteCorrected (h : Hw) : Hw :=
  if h.integ.corrections = 255 then h
  else
    let h := { h with integ := { h.integ with corrections := h.integ.corrections + 1 } }
    if h.integ.corrections = 16 then post .corrections h else h

/-- Whether an uncorrectable read at an index is a known error (R169). -/
def isKnown (i : Nat) (h : Hw) : Bool :=
  (match areaOf i with
    | .pair => h.integ.poisoned.getD (i / 3) false
    | .overlay => (h.meas.channels[(i - 4361) / 3]?.map Channel.poisoned).getD false
    | .generation => h.integ.faultHold
    | .descriptor | .owner | .link => false)
  || h.integ.pending.any fun e => e.index == i

/-- Every pair loses exchange eligibility: both eligible sets empty, and the credits of the pairs that leave are set
to 0 (R11, R57, R65). -/
def endExchange (h : Hw) : Hw :=
  { h with
    sched := { h.sched with
      credit := Vector.ofFn fun n => if h.sched.eligible[n] then 0 else h.sched.credit[n]
      eligible := Vector.replicate 24 false }
    line := { h.line with eligible := Vector.replicate 24 false } }

/-- Entry to FAULT HOLD (R174): the flag and the cause, FAULT_HOLD, and the reports to the pair table, the trunk
interface and the test bus unit. -/
def enterFaultHold (kind : HoldKind) (i : Nat) (h : Hw) : Hw :=
  let h := { h with integ := { h.integ with faultHold := true, holdCause := some (kind, ⟨i, h.seconds⟩) } }
  let h := endExchange (post .faultHold h)
  { h with trunk := { h.trunk with permitted := false }, requests := h.requests ++ [.faultAbort] }

/-- The record of an error that is not known, outside the GENERATION area (R170). -/
def recordError (i : Nat) (h : Hw) : Hw :=
  match h.integ.pending with
  | none =>
    post .uncorrectable { h with integ := { h.integ with pending := some ⟨i, h.seconds⟩, gate := .waiting } }
  | some _ => if h.integ.faultHold then h else enterFaultHold .second i h

/-- The record of an uncorrectable read (R169, R170). -/
def recordUncorrectable (i : Nat) (h : Hw) : Hw :=
  if isKnown i h then h
  else if areaOf i = .generation then enterFaultHold .generation i h
  else recordError i h

/-! ### Notices and versions (R14, R16) -/

/-- Append a pair to a port's notice queue if it is not there; an entry that joins sets NOTICE (R16, R17). -/
def joinNotice (n : PairIx) (p : Port) (h : Hw) : Hw :=
  if n ∈ h.pairTable.notices.get p then h
  else raiseAt p .notice
    { h with pairTable := { h.pairTable with
        notices := h.pairTable.notices.set p (h.pairTable.notices.get p ++ [n]) } }

/-- Post a notice for a pair (R16). -/
def postNotice (n : PairIx) (h : Hw) : Hw := joinNotice n .tst (joinNotice n .trk (joinNotice n .sup h))

/-- The stored part of a pair. -/
def storedPair (h : Hw) (n : PairIx) : StoredPair := h.pairTable.stored[n]

/-- Replace the stored part of a pair. -/
def setStored (n : PairIx) (x : StoredPair) (h : Hw) : Hw :=
  { h with pairTable := { h.pairTable with stored := h.pairTable.stored.set n x } }

/-- Write the first word of a pair, with fresh check bits (R3). -/
def writeFirst (n : PairIx) (w : ServiceWord) (h : Hw) : Hw :=
  setStored n { storedPair h n with first := .fresh w } h

/-- Whether a record is poisoned (R12). -/
def isPoisoned (h : Hw) (n : PairIx) : Bool := h.integ.poisoned[n]

/-- The service, tier, weight and version a record shows: the full-reset values while poisoned (R13). -/
def shownService (h : Hw) (n : PairIx) : ServiceWord :=
  if isPoisoned h n then .reset else (storedPair h n).first.val

/-- The version a record shows (R13). -/
def shownVersion (h : Hw) (n : PairIx) : Half := (shownService h n).version

/-- A change of the record by one owner in one event (R14): the version advances and a notice is posted; while the
record is poisoned only the notice is (R13). -/
def stepRecord (n : PairIx) (h : Hw) : Hw :=
  if isPoisoned h n then postNotice n h
  else
    let w := (storedPair h n).first.val
    postNotice n (writeFirst n { w with version := w.version + 1 } h)

/-! ### Eligibility (R10, R11) -/

/-- The bus a pair is on, as its record shows it (R2, R102). -/
def busOf (h : Hw) (n : PairIx) : Option BusId :=
  if h.testBus.bus.bus0.pair = some n then some .bus0
  else if h.testBus.bus.bus1.pair = some n then some .bus1
  else none

/-- R10. -/
def queueEligible (h : Hw) (n : PairIx) : Bool :=
  (storedPair h n).first.val.service == .active && h.power.pairs[n].powered && !isPoisoned h n

/-- R11. -/
def exchangeEligible (h : Hw) (n : PairIx) : Bool :=
  queueEligible h n && h.relay.pairs[n].pos == .through && !h.relay.pairs[n].moving
    && h.relay.pairs[n].guard == .none && busOf h n == none && !h.integ.faultHold

/-- The pair table's report of a pair's exchange eligibility, as the line bus controller and the share scheduler take
it (R11, R57, R65). -/
def report (n : PairIx) (e : Bool) (h : Hw) : Hw :=
  { h with
    sched := { h.sched with
      credit := if h.sched.eligible[n] && !e then h.sched.credit.set n 0 else h.sched.credit
      eligible := h.sched.eligible.set n e }
    line := { h.line with eligible := h.line.eligible.set n e } }

/-- Evaluate the exchange eligibility of a pair again (R11). -/
def refresh (n : PairIx) (h : Hw) : Hw := report n (exchangeEligible h n) h

/-- Send a request that its owner takes before the event ends. -/
def send (r : Request) (h : Hw) : Hw := { h with requests := h.requests ++ [r] }

end Sys2Proof.Machine
end

