-- ==== Sys2Proof/Machine/Sparse.lean ====
section
/-! DEFINITION. Sparse storage in one canonical form: a list of index and value pairs, indexes strictly rising, with no
entry equal to what an unlisted index reads as. -/

namespace Sys2Proof.Machine

/-- The value at an index: its entry, or the default of an unlisted index. -/
def Sparse.get {α : Type} (dflt : Nat → α) : List (Nat × α) → Nat → α
  | [], k => dflt k
  | (j, v) :: rest, k => if j = k then v else Sparse.get dflt rest k

/-- Put an entry in its place, with no regard to the default. -/
def Sparse.insert {α : Type} (k : Nat) (v : α) : List (Nat × α) → List (Nat × α)
  | [] => [(k, v)]
  | (j, w) :: rest =>
    if k < j then (k, v) :: (j, w) :: rest
    else if k = j then (k, v) :: rest
    else (j, w) :: Sparse.insert k v rest

/-- Take an index out of the list. -/
def Sparse.erase {α : Type} (k : Nat) (m : List (Nat × α)) : List (Nat × α) :=
  m.filter fun e => e.1 ≠ k

/-- Write a value: writing the default removes the entry. -/
def Sparse.set {α : Type} [DecidableEq α] (dflt : Nat → α) (m : List (Nat × α)) (k : Nat) (v : α) : List (Nat × α) :=
  if v = dflt k then Sparse.erase k m else Sparse.insert k v m

/-- The canonical form: indexes strictly rising from a lower bound on, no entry equal to the default. -/
def Sparse.wfFrom {α : Type} [DecidableEq α] (dflt : Nat → α) : Nat → List (Nat × α) → Bool
  | _, [] => true
  | lo, (k, v) :: rest => decide (lo ≤ k) && decide (v ≠ dflt k) && Sparse.wfFrom dflt (k + 1) rest

/-- The canonical form. -/
def Sparse.wf {α : Type} [DecidableEq α] (dflt : Nat → α) (m : List (Nat × α)) : Bool :=
  Sparse.wfFrom dflt 0 m

end Sys2Proof.Machine
end

