-- ==== Sys2Proof/Machine/Store.lean ====
section
/-! DEFINITION. The queue engine (R25 to R49) as operations on the cell store alone. A run carries the store and what
the operation has caused elsewhere (errors to record, events, changes of congested), which `runStore` then applies in
order. -/

namespace Sys2Proof.Machine

/-- What an operation of the queue engine causes outside the store. -/
inductive StoreEffect where
  | corrected
  | uncorrectable (index : Nat)
  | brokenRead (index : Nat)
  | event (f : EventFlag)
  | congested (q : QueueIx)
  deriving DecidableEq, Repr

/-- The store in the course of an operation, and its effects elsewhere, oldest first. -/
structure StoreRun where
  store : Store
  out : List StoreEffect
  deriving DecidableEq, Repr

/-! ### Words of the store -/

def Holds.get (x : Holds) : HoldName → Option CellIx
  | .trunkTx => x.trunkTx | .trunkRx => x.trunkRx | .lineIn => x.lineIn | .lineOut => x.lineOut

def Holds.set (x : Holds) : HoldName → Option CellIx → Holds
  | .trunkTx, v => { x with trunkTx := v }
  | .trunkRx, v => { x with trunkRx := v }
  | .lineIn, v => { x with lineIn := v }
  | .lineOut, v => { x with lineOut := v }

/-- The held count (R28). -/
def Holds.count (x : Holds) : Nat :=
  [x.trunkTx, x.trunkRx, x.lineIn, x.lineOut].countP Option.isSome

def Store.owner (s : Store) (c : CellIx) : Protected Owner := Sparse.get ownerDefault s.owners c.val
def Store.link (s : Store) (c : CellIx) : Protected Link := Sparse.get linkDefault s.links c.val
def Store.setOwner (s : Store) (c : CellIx) (w : Protected Owner) : Store :=
  { s with owners := Sparse.set ownerDefault s.owners c.val w }
def Store.setLink (s : Store) (c : CellIx) (w : Protected Link) : Store :=
  { s with links := Sparse.set linkDefault s.links c.val w }

/-- The address of byte i of a cell's payload slot. -/
def payloadAddress (c : CellIx) (i : Nat) : Nat := 64 * c.val + i

def Store.payloadByte (s : Store) (c : CellIx) (i : Nat) : Byte := Sparse.get payloadDefault s.payload (payloadAddress c i)
def Store.setPayloadByte (s : Store) (c : CellIx) (i : Nat) (b : Byte) : Store :=
  { s with payload := Sparse.set payloadDefault s.payload (payloadAddress c i) b }

/-- Write the first bytes of a payload slot. -/
def Store.writePayload (s : Store) (c : CellIx) (bytes : List Byte) : Store :=
  (bytes.zipIdx).foldl (fun s e => s.setPayloadByte c e.2 e.1) s

/-- Read the first bytes of a payload slot. -/
def Store.readPayload (s : Store) (c : CellIx) (len : Nat) : List Byte :=
  (List.range len).map fun i => s.payloadByte c i

/-- The cells on the 48 chains, the retired set and the present number of stranded cells (R36). -/
def Store.queued (s : Store) : Nat := (s.descriptors.toList.map fun d => d.fields.count).sum
def Store.retiredCount (s : Store) : Nat := s.retired.length

namespace StoreRun

def emit (e : StoreEffect) (r : StoreRun) : StoreRun := { r with out := r.out ++ [e] }

def modify (f : Store → Store) (r : StoreRun) : StoreRun := { r with store := f r.store }

/-- The effect of the check of a word at an index (R168, R170). -/
def check (u : Upset) (index : Nat) (r : StoreRun) : StoreRun :=
  match u.outcome with
  | .good => r
  | .corrected => r.emit .corrected
  | .uncorrectable => r.emit (.uncorrectable index)

def writeOwner (c : CellIx) (o : Owner) (r : StoreRun) : StoreRun := r.modify fun s => s.setOwner c (.fresh o)

def writeLink (c : CellIx) (l : Link) (r : StoreRun) : StoreRun := r.modify fun s => s.setLink c (.fresh l)

/-- Write a link word's next cell; the payload length standing in the word is kept (log 14). -/
def relink (c : CellIx) (next : Next) (r : StoreRun) : StoreRun :=
  r.writeLink c { (r.store.link c).val with next := next }

/-- Read an owner word; one found uncorrectable is retired, and reads RETIRED (R39). -/
def readOwner (c : CellIx) (r : StoreRun) : Owner × StoreRun :=
  let w := r.store.owner c
  let r := r.check w.upset (ownerIndex c)
  match w.read with
  | some o => (o, r.modify fun s => s.setOwner c w.afterRead)
  | none => (.retired, (r.writeOwner c .retired).emit (.event .retired))

/-- Read a link word as it stands (R167). -/
def readLink (c : CellIx) (r : StoreRun) : Option Link × StoreRun :=
  let w := r.store.link c
  let r := r.check w.upset (linkIndex c)
  (w.read, r.modify fun s => s.setLink c w.afterRead)

/-- Read a link word for a chain operation: the next cell and the length, or nothing when the word is uncorrectable or
BROKEN (R25, R37). -/
def chainLink (c : CellIx) (r : StoreRun) : Option (Option CellIx × Nat) × StoreRun :=
  match r.readLink c with
  | (none, r) => (none, r)
  | (some l, r) =>
    match l.next with
    | .cell d => (some (some d, l.len), r)
    | .fin => (some (none, l.len), r)
    | .broken => (none, r.emit (.brokenRead (linkIndex c)))

/-- Read a queue's generation (R42). -/
def readGeneration (q : QueueIx) (r : StoreRun) : Option Byte × StoreRun :=
  let w := r.store.generations[q]
  let r := r.check w.upset (generationIndex q)
  (w.read, r.modify fun s => { s with generations := s.generations.set q w.afterRead })

/-- Read the free generation (R42). -/
def readFreeGeneration (r : StoreRun) : Option Byte × StoreRun :=
  let w := r.store.freeGeneration
  let r := r.check w.upset freeGenerationIndex
  (w.read, r.modify fun s => { s with freeGeneration := w.afterRead })

/-- The congested flag a count calls for, given the flag that stands (R35). -/
def congestedNow (d : Descriptor) (flag : Bool) : Bool :=
  if flag then decide (d.highMark / 2 < d.count) else decide (d.highMark ≤ d.count)

/-- Write a descriptor, with fresh check bits, and evaluate the congested flag (R35). Each write that changes the flag is a
change of its own, also when the same event has changed it before: the model's choice (log 43). -/
def writeDescriptor (q : QueueIx) (d : Descriptor) (r : StoreRun) : StoreRun :=
  let old := r.store.congested[q]
  let r := r.modify fun s => { s with
    descriptors := s.descriptors.set q (.fresh d)
    congested := s.congested.set q (congestedNow d old) }
  if congestedNow d old = old then r else r.emit (.congested q)

/-! ### Pool (R26, R36, R38, R39) -/

/-- POOL_LOW after a fall of the free count (R36). -/
def poolFell (r : StoreRun) : StoreRun :=
  if r.store.freeCount ≤ 64 ∧ r.store.poolLow = false then
    (r.modify fun s => { s with poolLow := true }).emit (.event .poolLow)
  else r

/-- POOL_OK after a rise of the free count (R36). -/
def poolRose (r : StoreRun) : StoreRun :=
  if 128 ≤ r.store.freeCount ∧ r.store.poolLow = true then
    (r.modify fun s => { s with poolLow := false }).emit (.event .poolOk)
  else r

/-- Place a cell in the retired set (R39). -/
def retire (c : CellIx) (r : StoreRun) : StoreRun := r.modify fun s => { s with retired := c :: s.retired }

/-- What a chain's head or link names (R25). -/
def nextOf : Option CellIx → Next
  | some c => .cell c
  | none => .fin

/-- Push a cell onto the free list under a free generation (R26, steps 2 to 4); the payload length standing in its link
word is kept (log 8). -/
def push (c : CellIx) (g : Byte) (r : StoreRun) : StoreRun :=
  let r := r.writeOwner c (.free g)
  let r := r.relink c (nextOf r.store.freeHead)
  (r.modify fun s => { s with freeHead := some c, freeCount := s.freeCount + 1 }).poolRose

/-- Free a cell (R26): it is pushed, goes to the retired set, or is stranded when the free generation cannot be read
(R42). The answer says whether it was pushed or retired. -/
def freeCell (c : CellIx) (r : StoreRun) : Bool × StoreRun :=
  let (o, r) := r.readOwner c
  if o = .retired then (true, r.retire c)
  else
    let (g, r) := r.readFreeGeneration
    match g with
    | some g => (true, r.push c g)
    | none => (false, r)

/-- A free list break (R38, R42). -/
def breakFree (r : StoreRun) : StoreRun :=
  let (g, r) := r.readFreeGeneration
  let r := match g with
    | some g => r.modify fun s => { s with freeGeneration := .fresh (g + 1) }
    | none => r
  let r := r.modify fun s => { s with freeHead := none, freeCount := 0 }
  (r.emit (.event .queueBroken)).poolFell

/-! ### Queues (R29, R30, R37) -/

/-- A queue break (R37, R42). A break by a link word keeps the limit and the high mark last written, which it does not read:
where the scrubber or TABLE READ has found the link, no operation has read the descriptor either (log 44). A break by a
descriptor word writes all three words, read or not (log 55). -/
def breakQueue (q : QueueIx) (fromDescriptor : Bool) (r : StoreRun) : StoreRun :=
  let (g, r) := r.readGeneration q
  let r := match g with
    | some g => r.modify fun s => { s with generations := s.generations.set q (.fresh (g + 1)) }
    | none => r
  let d := r.store.descriptors[q].fields
  let r := r.emit (.event .queueBroken)
  r.writeDescriptor q
    (if fromDescriptor then .empty Config.defaultLimit Config.defaultHighMark else .empty d.limit d.highMark)

/-- Clear the upset of a word that was corrected; leave any other as it is (R167). -/
def corrected (u : Upset) : Upset := (Protected.afterRead ⟨(), u⟩).upset

/-- Begin an operation on a queue: read its three descriptor words; an uncorrectable one breaks the queue (R29). -/
def openQueue (q : QueueIx) (r : StoreRun) : Descriptor × StoreRun :=
  let w := r.store.descriptors[q]
  let r := r.check w.upset0 (descriptorIndex q 0)
  let r := r.check w.upset1 (descriptorIndex q 1)
  let r := r.check w.upset2 (descriptorIndex q 2)
  let r := r.modify fun s => { s with
    descriptors := s.descriptors.set q ⟨w.fields, corrected w.upset0, corrected w.upset1, corrected w.upset2⟩ }
  let r := if w.upset0.outcome = .uncorrectable ∨ w.upset1.outcome = .uncorrectable
      ∨ w.upset2.outcome = .uncorrectable then r.breakQueue q true else r
  (r.store.descriptors[q].fields, r)

/-- Tag a cell that joins queue q: a RETIRED cell joins as it stands (R30); a generation that cannot be read leaves the
cell stranded (R42). The answer says whether the cell joins. -/
def tag (q : QueueIx) (c : CellIx) (r : StoreRun) : Bool × StoreRun :=
  let (o, r) := r.readOwner c
  if o = .retired then (true, r)
  else
    let (g, r) := r.readGeneration q
    match g with
    | some g => (true, r.writeOwner c (.queue q g))
    | none => (false, r)

/-- APPEND (R30). -/
def append (q : QueueIx) (c : CellIx) (len : Nat) (r : StoreRun) : StoreRun :=
  let (d, r) := r.openQueue q
  let (joins, r) := r.tag q c
  if joins then
    let r := r.writeLink c ⟨.fin, len⟩
    match d.tail with
    | some t => (r.relink t (.cell c)).writeDescriptor q { d with tail := some c, count := d.count + 1 }
    | none => r.writeDescriptor q { d with head := some c, tail := some c, count := d.count + 1 }
  else r

/-- LEAD on a queue whose lead count is 0 (R30). -/
def leadFirst (q : QueueIx) (c : CellIx) (len : Nat) (d : Descriptor) (r : StoreRun) : StoreRun :=
  let (joins, r) := r.tag q c
  if joins then
    (r.writeLink c ⟨nextOf d.head, len⟩).writeDescriptor q
      { d with
        head := some c
        tail := d.tail.or (some c)
        count := d.count + 1
        leadCount := d.leadCount + 1
        leadTail := some c }
  else r

/-- LEAD behind a lead tail whose link has been read (R30). -/
def leadBehind (q : QueueIx) (c : CellIx) (len : Nat) (d : Descriptor) (lt : CellIx) (next : Option CellIx)
    (ltLen : Nat) (r : StoreRun) : StoreRun :=
  let (joins, r) := r.tag q c
  if joins then
    let r := r.writeLink c ⟨nextOf next, len⟩
    (r.writeLink lt ⟨.cell c, ltLen⟩).writeDescriptor q
      { d with
        tail := if d.tail = some lt then some c else d.tail
        count := d.count + 1
        leadCount := d.leadCount + 1
        leadTail := some c }
  else r

/-- LEAD (R30). The lead tail's link word is read before the joining cell's owner word: the model's choice, which decides
which of two uncorrectable words makes the pending record (log 51). -/
def lead (q : QueueIx) (c : CellIx) (len : Nat) (r : StoreRun) : StoreRun :=
  let (d, r) := r.openQueue q
  if d.leadCount = 0 then r.leadFirst q c len d
  else
    match d.leadTail with
    | none => r.leadFirst q c len d
    | some lt =>
      match r.chainLink lt with
      | (some (next, ltLen), r) => r.leadBehind q c len d lt next ltLen
      | (none, r) =>
        let r := r.breakQueue q false
        r.leadFirst q c len r.store.descriptors[q].fields

/-! ### TRIM, TAKE, FLUSH (R31 to R33) -/

/-- Follow a chain until a link word names the tail (R32): the cell found, or nothing when a link word on the way is
uncorrectable or BROKEN, or the chain ends without naming it. -/
def followTo (tail : CellIx) : Nat → Option CellIx → StoreRun → Option CellIx × StoreRun
  | 0, _, r => (none, r)
  | _ + 1, none, r => (none, r)
  | fuel + 1, some c, r =>
    match r.chainLink c with
    | (some (next, _), r) => if next = some tail then (some c, r) else followTo tail fuel next r
    | (none, r) => (none, r)

/-- The first ordinary cell: the head when the lead count is 0, else the one the lead tail's link names (R32). The
outer none is a link word that cannot be used. -/
def firstOrdinary (d : Descriptor) (r : StoreRun) : Option (Option CellIx) × StoreRun :=
  match d.leadTail with
  | none => (some d.head, r)
  | some lt =>
    match r.chainLink lt with
    | (some (next, _), r) => (some next, r)
    | (none, r) => (none, r)

/-- The number of cells, a bound on any walk of a chain. -/
def walkFuel : Nat := 2048

/-- Take the tail off a queue, the cell before it becoming the tail (R32). -/
def cutTail (q : QueueIx) (d : Descriptor) (before : Option CellIx) (tail : CellIx) (r : StoreRun) : StoreRun :=
  let r := match before with
    | some b => (r.relink b .fin).writeDescriptor q { d with tail := some b, count := d.count - 1 }
    | none => r.writeDescriptor q { d with head := none, tail := none, count := d.count - 1 }
  (r.freeCell tail).2

/-- TRIM (R32). -/
def trim (q : QueueIx) (r : StoreRun) : StoreRun :=
  let (d, r) := r.openQueue q
  if d.count ≤ d.leadCount then r
  else
    match d.tail with
    | none => r
    | some t =>
      if d.count = d.leadCount + 1 then r.cutTail q d d.leadTail t
      else
        match r.firstOrdinary d with
        | (none, r) => r.breakQueue q false
        | (some first, r) =>
          match followTo t walkFuel first r with
          | (some b, r) => r.cutTail q d (some b) t
          | (none, r) => r.breakQueue q false

/-- What TAKE answers: the cell, whether it was urgent, and its payload length (R31). -/
structure Taken where
  cell : CellIx
  urgent : Bool
  len : Nat
  deriving DecidableEq, Repr

/-- The descriptor after its head has been taken (R31). -/
def takeHead (d : Descriptor) (next : Option CellIx) : Descriptor :=
  { d with
    head := if d.count - 1 = 0 then none else next
    tail := if d.count - 1 = 0 then none else d.tail
    count := d.count - 1
    leadCount := d.leadCount - 1
    leadTail := if d.leadCount - 1 = 0 then none else d.leadTail }

/-- TAKE (R31). -/
def take (q : QueueIx) (hold : HoldName) (faultHold : Bool) (r : StoreRun) : Option Taken × StoreRun :=
  let (d, r) := r.openQueue q
  if faultHold ∨ (r.store.holds.get hold).isSome ∨ d.count = 0 then (none, r)
  else
    match d.head with
    | none => (none, r)
    | some c =>
      let (o, r) := r.readOwner c
      match r.chainLink c with
      | (none, r) => (none, r.breakQueue q false)
      | (some (next, len), r) =>
        let r := r.writeDescriptor q (takeHead d next)
        let r := if o = .retired then r else r.writeOwner c .held
        (some ⟨c, decide (0 < d.leadCount), len⟩,
          r.modify fun s => { s with holds := s.holds.set hold (some c) })

/-- Walk a chain and free each cell (R33): the number freed or retired, and whether a link word on the way was
uncorrectable or BROKEN. -/
def freeChain : Nat → Option CellIx → Nat → StoreRun → Nat × Bool × StoreRun
  | 0, _, n, r => (n, false, r)
  | _ + 1, none, n, r => (n, false, r)
  | fuel + 1, some c, n, r =>
    match r.chainLink c with
    | (none, r) => (n, true, r)
    | (some (next, _), r) =>
      match r.freeCell c with
      | (true, r) => freeChain fuel next (n + 1) r
      | (false, r) => (n, false, r)

/-- FLUSH (R33): the number of cells freed or retired. -/
def flush (q : QueueIx) (r : StoreRun) : Nat × StoreRun :=
  let (d, r) := r.openQueue q
  if d.count = 0 then (0, r)
  else
    match freeChain walkFuel d.head 0 r with
    | (n, true, r) => (n, r.breakQueue q false)
    | (n, false, r) => (n, r.writeDescriptor q (.empty d.limit d.highMark))

/-! ### Allocation and admission (R27, R34) -/

/-- A bound on the tries of one allocation: each try but the last takes a cell off the free list, trims a queue, or
breaks the free list. -/
def allocFuel : Nat := 4096

/-- What one pop of the free list gives (R27, steps 4 and 5). -/
inductive Popped where
  | cell (c : CellIx)
  | again
  | refused
  deriving DecidableEq, Repr

/-- Pop the head of the free list (R27, steps 4 and 5). -/
def pop (r : StoreRun) : Popped × StoreRun :=
  match r.store.freeHead with
  | none => (.refused, r)
  | some c =>
    let (o, r) := r.readOwner c
    match r.chainLink c with
    | (none, r) => (.again, r.breakFree)
    | (some (next, _), r) =>
      let r := (r.modify fun s => { s with freeHead := next, freeCount := s.freeCount - 1 }).poolFell
      if o = .retired then (.again, r.retire c) else (.cell c, r)

/-- The free count that must be exceeded (R27, step 2). -/
def reserve (urgent : Bool) : Nat := if urgent then 0 else 64

/-- The tries of an allocation (R27, steps 2 to 5). A trim that leaves the free count at 0, its cell retired or stranded, is
followed by another while the queue holds an ordinary cell (log 59). -/
def allocTry (urgent : Bool) (q : QueueIx) : Nat → StoreRun → Option CellIx × StoreRun
  | 0, r => (none, r)
  | fuel + 1, r =>
    if reserve urgent < r.store.freeCount then
      match r.pop with
      | (.cell c, r) => (some c, r)
      | (.again, r) => allocTry urgent q fuel r
      | (.refused, r) => (none, r)
    else if urgent then
      let (d, r) := r.openQueue q
      if d.leadCount < d.count then allocTry urgent q fuel (r.trim q) else (none, r)
    else (none, r)

/-- An allocation request (R27). -/
def allocate (urgent : Bool) (q : QueueIx) (hold : HoldName) (faultHold : Bool) (r : StoreRun) :
    Option CellIx × StoreRun :=
  if faultHold ∨ (r.store.holds.get hold).isSome then (none, r)
  else
    match allocTry urgent q allocFuel r with
    | (none, r) => (none, r)
    | (some c, r) =>
      (some c, (r.writeOwner c .held).modify fun s => { s with holds := s.holds.set hold (some c) })

/-- Empty a hold. -/
def clearHold (hold : HoldName) (r : StoreRun) : StoreRun :=
  r.modify fun s => { s with holds := s.holds.set hold none }

/-- An interface releases a held cell (R28). -/
def release (hold : HoldName) (r : StoreRun) : StoreRun :=
  match r.store.holds.get hold with
  | none => r
  | some c => ((r.clearHold hold).freeCell c).2

/-- An urgent cell that finds the queue at its limit displaces the newest ordinary cell (R34, step 4). The trim may clear the
congested flag and the LEAD set it again: two changes (log 43). Whether the urgent cell is added goes by the count after the
trim alone, also when the trimmed cell was stranded by an unreadable free generation, or went to the retired set: the model's
choice (log 58). -/
def displace (q : QueueIx) (c : CellIx) (len : Nat) (r : StoreRun) : StoreRun :=
  let r := r.trim q
  let d := r.store.descriptors[q].fields
  if d.count < d.limit then r.lead q c len else (r.freeCell c).2

/-- An admission request for the cell in a hold (R34). -/
def admitOffer (q : QueueIx) (urgent : Bool) (len : Nat) (hold : HoldName) (faultHold eligible : Bool) (r : StoreRun) :
    StoreRun :=
  match r.store.holds.get hold with
  | none => r
  | some c =>
    let r := r.clearHold hold
    if faultHold ∨ eligible = false then (r.freeCell c).2
    else
      let (d, r) := r.openQueue q
      if d.count < d.limit then (if urgent then r.lead q c len else r.append q c len)
      else if urgent then r.displace q c len
      else (r.freeCell c).2

/-! ### The scrubber's requests (R40, R41) -/

/-- A link word found uncorrectable by the scrubber or by TABLE READ (R40). The break of a queue reads none of its descriptor
words: the model's choice (log 44). -/
def linkError (c : CellIx) (r : StoreRun) : StoreRun :=
  let markBroken (r : StoreRun) : StoreRun :=
    (r.writeLink c ⟨.broken, 1 + Config.lostLength r.store.fresh % 64⟩).modify fun s => { s with fresh := s.fresh + 1 }
  let (o, r) := r.readOwner c
  match o with
  | .queue q g =>
    let (cur, r) := r.readGeneration q
    if cur = some g then r.breakQueue q false else markBroken r
  | .free g =>
    let (cur, r) := r.readFreeGeneration
    if cur = some g then r.breakFree else markBroken r
  | .held | .retired => markBroken r

/-- Push a reclaimed cell and count it (R41). -/
def reclaimCell (c : CellIx) (r : StoreRun) : StoreRun :=
  let (g, r) := r.readFreeGeneration
  match g with
  | some g => (r.push c g).modify fun s => { s with passReclaimed := s.passReclaimed + 1 }
  | none => r

/-- A reclaim request with the owner word the scrubber read (R41). -/
def reclaim (c : CellIx) (o : Owner) (r : StoreRun) : StoreRun :=
  match o with
  | .queue q g =>
    let (cur, r) := r.readGeneration q
    match cur with
    | some cur => if cur = g then r else r.reclaimCell c
    | none => r
  | .free g =>
    let (cur, r) := r.readFreeGeneration
    match cur with
    | some cur => if cur = g then r else r.reclaimCell c
    | none => r
  | .held | .retired => r

/-- The stranded count is published at a pass end (R41). -/
def publish (r : StoreRun) : StoreRun :=
  r.modify fun s => { s with stranded := s.passReclaimed, passReclaimed := 0 }

end StoreRun

/-- The cell store after RESET PART (R49): as at full reset, but for the limit and the high mark of each queue whose
descriptor can be read; payload slots and the model's counter stand (log 25). -/
def Store.rebuilt (s : Store) : Store :=
  { Store.reset with
    descriptors := s.descriptors.map fun w =>
      if w.upset0.outcome = .uncorrectable ∨ w.upset1.outcome = .uncorrectable ∨ w.upset2.outcome = .uncorrectable
      then .reset else .fresh (.empty w.fields.limit w.fields.highMark)
    payload := s.payload
    fresh := s.fresh }

/-! ### The store inside the part -/

/-- What one effect of a store operation does elsewhere (R35, R168, R170). Each change of a congested flag of a UPQ is one
step of the version (log 43). -/
def applyEffect (h : Hw) : StoreEffect → Hw
  | .corrected => noteCorrected h
  | .uncorrectable i => recordUncorrectable i h
  | .brokenRead i => recordError i h
  | .event f => post f h
  | .congested q =>
    match upqPair q with
    | some n => stepRecord n h
    | none => h

/-- Put the store of a run into the part, and apply its effects in order. -/
def runStore (r : StoreRun) (h : Hw) : Hw := r.out.foldl applyEffect { h with store := r.store }

/-- A store run that begins in the present state. -/
def storeRun (h : Hw) : StoreRun := ⟨h.store, []⟩

/-- Release the cell of a hold (R28). -/
def releaseHold (hold : HoldName) (h : Hw) : Hw := runStore ((storeRun h).release hold) h

/-- Flush a queue (R33). -/
def flushQueue (q : QueueIx) (h : Hw) : Hw := runStore ((storeRun h).flush q).2 h

end Sys2Proof.Machine
end

