-- ==== Sys2Proof/Machine/Pairs.lean ====
section
/-! DEFINITION. The pair table's shared operations: checked reads of the stored part and poisoning (R3, R12), the end of
queue eligibility (R10), the last-test summary (R6), the view of a record (R2, R13, R194). -/

namespace Sys2Proof.Machine

/-- Replace what the power unit keeps for a pair (R152). -/
def setPowerPair (n : PairIx) (x : PowerPair) (h : Hw) : Hw :=
  { h with power := { h.power with pairs := h.power.pairs.set n x } }

/-- The flush of both queues of a pair (R10), the upstream queue first: deduced from R46's order for FLUSH QUEUE (log 57). -/
def flushPair (n : PairIx) (h : Hw) : Hw := flushQueue (dnq n) (flushQueue (upq n) h)

/-- Poisoning of a record (R12): the flag, the power hold, the flush, the report, the request to the test bus unit and
the notice. -/
def poison (n : PairIx) (h : Hw) : Hw :=
  if isPoisoned h n then h
  else
    let h := { h with integ := { h.integ with poisoned := h.integ.poisoned.set n true } }
    let h := setPowerPair n { h.power.pairs[n] with frozen := true } h
    postNotice n (send (.poisonAbort n) (refresh n (flushPair n h)))

/-- The upset of one of the three words of a stored part (R3). -/
def StoredPair.upset (x : StoredPair) : Fin 3 → Upset
  | 0 => x.first.upset | 1 => x.second.upset | 2 => x.third.upset

/-- A stored part with a corrected word written back (R167). -/
def StoredPair.correct (x : StoredPair) : Fin 3 → StoredPair
  | 0 => { x with first := x.first.afterRead }
  | 1 => { x with second := x.second.afterRead }
  | 2 => { x with third := x.third.afterRead }

/-- A checked read of one word of a pair (R3, R167); an uncorrectable one poisons the record (R12). -/
def checkPairWord (n : PairIx) (w : Fin 3) (h : Hw) : Hw :=
  match ((storedPair h n).upset w).outcome with
  | .good => h
  | .corrected => noteCorrected (setStored n ((storedPair h n).correct w) h)
  | .uncorrectable => poison n (recordUncorrectable (pairIndex n w.val) h)

/-- A checked read of all three words of a pair (R3), first, second and third: the order is the model's choice, and decides
which of two uncorrectable words makes the pending record (log 42). -/
def checkPair (n : PairIx) (h : Hw) : Hw := checkPairWord n 2 (checkPairWord n 1 (checkPairWord n 0 h))

/-- A change that may move a pair in or out of eligibility: exchange eligibility is evaluated again, and the queues are
flushed when queue eligibility has ended (R10, R11). -/
def changing (n : PairIx) (f : Hw → Hw) (h : Hw) : Hw :=
  let after := refresh n (f h)
  if queueEligible h n && !queueEligible after n then flushPair n after else after

/-- A change of a pair's record by one owner, with both eligibilities evaluated again (R8, R11, R14). -/
def recordChanged (n : PairIx) (h : Hw) : Hw := refresh n (stepRecord n h)

/-- The summary write that the measurement unit requests (R6). A write of the values held is no change (R14, log 20). Of a
record that is already poisoned, for which the request is dropped (R13), no word is read: the model's choice (log 60). -/
def writeSummary (n : PairIx) (verdict : Verdict) (profile : Option (Fin 16)) (h : Hw) : Hw :=
  if isPoisoned h n then h
  else
    let h := checkPair n h
    if isPoisoned h n then h
    else
      let x := storedPair h n
      let y := { x with second := .fresh ⟨verdict, profile⟩, third := .fresh h.seconds }
      if y = x then h else stepRecord n (setStored n y h)

/-- An optional one-byte item, FFh when none (R194). -/
def optionalByte (x : Option Nat) : Byte :=
  match x with
  | some v => byte v
  | none => noneByte

def encodeBus : BusId → Nat
  | .bus0 => 0 | .bus1 => 1

/-- The pair record view of R194, formed from the owners' present values (R2), the stored fields at their full-reset
values while the record is poisoned (R13). -/
def viewOf (h : Hw) (n : PairIx) : List Byte :=
  let w := shownService h n
  let second : SummaryWord := if isPoisoned h n then .reset else (storedPair h n).second.val
  let third : Seconds := if isPoisoned h n then 0 else (storedPair h n).third.val
  let p := h.power.pairs[n]
  let r := h.relay.pairs[n]
  let activity := h.line.activity[n]
  [byte n.val] ++ bytes2 w.version.toNat ++
  [encodeService w.service, byte w.tier.val, byte w.weight.val,
   bitOf (isPoisoned h n) 0 ||| bitOf p.powered 1 ||| bitOf p.line 2 ||| bitOf r.moving 3
     ||| bitOf h.store.congested[upq n] 4 ||| bitOf (queueEligible h n) 5 ||| bitOf (exchangeEligible h n) 6
     ||| bitOf activity.isNone 7,
   encodePos r.pos ||| (encodePos r.target <<< 4),
   encodeGuard r.guard,
   optionalByte ((busOf h n).map encodeBus)] ++
  bytesSeconds (activity.getD 0) ++
  [encodeVerdict second.verdict, optionalByte (second.profile.map Fin.val)] ++
  bytesSeconds third

end Sys2Proof.Machine
end

