-- ==== Sys2Proof/Machine/RelayOps.lean ====
section
/-! DEFINITION. The relay unit (R85 to R101) as operations on its own state, with what they cause elsewhere: changes of
pair records, and reports to the test bus unit (R90). -/

namespace Sys2Proof.Machine

/-- What an operation of the relay unit causes elsewhere. -/
inductive RelayEffect where
  | changed (n : PairIx)
  | report (r : Request)
  deriving DecidableEq, Repr

/-- The relay unit in the course of an operation, and its effects elsewhere, oldest first. -/
structure RelayRun where
  relay : Relay
  out : List RelayEffect
  deriving DecidableEq, Repr

namespace RelayRun

def emit (e : RelayEffect) (r : RelayRun) : RelayRun := { r with out := r.out ++ [e] }

def modify (f : Relay → Relay) (r : RelayRun) : RelayRun := { r with relay := f r.relay }

def setPair (n : PairIx) (x : RelayPair) (r : RelayRun) : RelayRun :=
  r.modify fun u => { u with pairs := u.pairs.set n x }

/-- DONE goes to the test bus unit when it made the request; the relay unit does nothing with its own (R90). -/
def reportDone (n : PairIx) (pos : RelayPos) (q : Requester) (r : RelayRun) : RelayRun :=
  match q with
  | .testBus => r.emit (.report (.relayDone n pos))
  | .relayUnit => r

/-- Whether bus k is clear for pair n: no other pair has position or target BUSk or position UNKNOWN (R89). -/
def busClear (u : Relay) (n : PairIx) (bus : RelayPos) : Bool :=
  (List.finRange 24).all fun m =>
    m == n || (u.pairs[m].pos != bus && u.pairs[m].target != bus && u.pairs[m].pos != .unknown)

/-- Whether an entry is startable (R89). -/
def startable (u : Relay) (e : Entry) : Bool :=
  !u.pairs[e.pair].moving &&
    (match e.target with
      | .bus0 | .bus1 => busClear u e.pair e.target
      | .unknown | .through | .isolated => true)

/-- The free move slot of the lowest number: which free slot takes a move is the model's choice (R86, log 46). -/
def freeSlot (u : Relay) : Option SlotIx := (List.finRange 4).find? fun i => u.slots[i].isNone

/-- The first startable entry, the guard section standing ahead of the normal section (R87, R89). -/
def firstStartable (u : Relay) : Option Entry := (u.guardSection ++ u.normalSection).find? (startable u)

/-- Take a pair's entry out of the relay queue. -/
def dropEntry (n : PairIx) (u : Relay) : Relay :=
  { u with
    guardSection := u.guardSection.filter fun e => e.pair ≠ n
    normalSection := u.normalSection.filter fun e => e.pair ≠ n }

/-- A move starts in a slot (R86). -/
def startMove (i : SlotIx) (e : Entry) (r : RelayRun) : RelayRun :=
  let r := r.setPair e.pair
    { r.relay.pairs[e.pair] with moving := true, target := e.target, drive := some e.target }
  (r.modify fun u => { u with slots := u.slots.set i (some ⟨e.pair, e.target, e.requester, u.settleTime⟩) }).emit
    (.changed e.pair)

/-- Start entries from the front of the relay queue (R89). Each turn but the last takes an entry off the queue, so 48
turns are enough. -/
def startEntries : Nat → RelayRun → RelayRun
  | 0, r => r
  | fuel + 1, r =>
    match freeSlot r.relay, firstStartable r.relay with
    | some i, some e =>
      let r := r.modify (dropEntry e.pair)
      if e.target = r.relay.pairs[e.pair].pos then
        startEntries fuel (r.reportDone e.pair e.target e.requester)
      else startEntries fuel (r.startMove i e)
    | _, _ => r

def startFuel : Nat := 48

/-- Join the end of the section that the target's class gives (R87). -/
def joinQueue (e : Entry) (u : Relay) : Relay :=
  if e.target = .isolated then { u with guardSection := u.guardSection ++ [e] }
  else { u with normalSection := u.normalSection ++ [e] }

/-- Replace the entry of a pair in its place. -/
def replaceEntry (e : Entry) (entries : List Entry) : List Entry :=
  entries.map fun x => if x.pair = e.pair then e else x

/-- A move request (R88), without the starting of entries that follows it. -/
def take (n : PairIx) (target : RelayPos) (q : Requester) (r : RelayRun) : RelayRun :=
  let e : Entry := ⟨n, target, q⟩
  let u := r.relay
  let inGuard := u.guardSection.any fun x => x.pair == n
  let inNormal := u.normalSection.any fun x => x.pair == n
  if !inGuard && !inNormal then
    if !u.pairs[n].moving && target == u.pairs[n].pos then r.reportDone n target q
    else r.modify (joinQueue e)
  else if target = .isolated then
    if inGuard then r.modify fun u => { u with guardSection := replaceEntry e u.guardSection }
    else r.modify fun u => joinQueue e (dropEntry n u)
  else
    if inNormal then r.modify fun u => { u with normalSection := replaceEntry e u.normalSection }
    else r.modify fun u => joinQueue e (dropEntry n u)

/-- A move request, and the starting of entries in the same event (R88, R89). -/
def request (n : PairIx) (target : RelayPos) (q : Requester) (r : RelayRun) : RelayRun :=
  startEntries startFuel (r.take n target q)

/-- The bus a relay position stands on. -/
def busAt : RelayPos → Option BusId
  | .bus0 => some .bus0
  | .bus1 => some .bus1
  | .unknown | .through | .isolated => none

/-- The completion of the move in a slot (R86, R90). When the pair's own queued entry starts in the same event, completion and
start are two changes of its record, two steps: the model's choice (log 47). -/
def settle (i : SlotIx) (r : RelayRun) : RelayRun :=
  match r.relay.slots[i] with
  | none => r
  | some m =>
    let x := r.relay.pairs[m.pair]
    let r := r.setPair m.pair { x with pos := m.target, moving := false, target := m.target }
    let r := r.modify fun u => { u with slots := u.slots.set i none }
    let r := r.emit (.changed m.pair)
    let r := r.reportDone m.pair m.target m.requester
    let r := match busAt x.pos with
      | some k => r.emit (.report (.departure m.pair k))
      | none => r
    startEntries startFuel r

/-- Change a pair's guard (R8). -/
def setGuard (n : PairIx) (g : Guard) (r : RelayRun) : RelayRun :=
  (r.setPair n { r.relay.pairs[n] with guard := g }).emit (.changed n)

end RelayRun

/-- What one effect of a relay operation does elsewhere (R8, R11, R90). -/
def applyRelayEffect (h : Hw) : RelayEffect → Hw
  | .changed n => recordChanged n h
  | .report r => send r h

/-- Put the relay unit of a run into the part, and apply its effects in order. -/
def runRelay (r : RelayRun) (h : Hw) : Hw := r.out.foldl applyRelayEffect { h with relay := r.relay }

/-- A relay run that begins in the present state. -/
def relayRun (h : Hw) : RelayRun := ⟨h.relay, []⟩

/-- A move request that a block makes of the relay unit (R88). -/
def requestMove (n : PairIx) (target : RelayPos) (q : Requester) (h : Hw) : Hw :=
  runRelay ((relayRun h).request n target q) h

/-- The target of a return move (R105): THROUGH when the guard is NONE, ISOLATED otherwise. -/
def returnTarget (h : Hw) (n : PairIx) : RelayPos :=
  if h.relay.pairs[n].guard = .none then .through else .isolated

/-- The six pairs of a cable block, in pair order. -/
def blockPairs (b : BlockIx) : List PairIx := (List.finRange 24).filter fun n => blockOf n == b

end Sys2Proof.Machine
end

