-- ==== Sys2Proof/Machine/Buses.lean ====
section
/-! DEFINITION. The bus records of the test bus unit: setters, timers (R106, R107), and the changes of a pair's bus field
(R102). -/

namespace Sys2Proof.Machine

def busRecord (h : Hw) (k : BusId) : BusRecord := h.testBus.bus.get k

def setBus (k : BusId) (b : BusRecord) (h : Hw) : Hw :=
  { h with testBus := { h.testBus with bus := h.testBus.bus.set k b } }

/-- Both buses, in order. -/
def allBuses : List BusId := [.bus0, .bus1]

def leaseStart (h : Hw) : Timer := some (h.testBus.leaseSetting * 1000)

/-- The hold at a start or restart: stopped when the setting is 0 (R107). -/
def holdStart (h : Hw) : Timer := secondsTimer h.testBus.holdSetting

/-- Entry to READY: the lease and the hold start (R106, R107). -/
def enterReady (k : BusId) (h : Hw) : Hw :=
  setBus k { busRecord h k with state := .ready, lease := leaseStart h, hold := holdStart h } h

/-- Entry to HELD: the lease starts, the hold stops (R106, R107). -/
def enterHeld (k : BusId) (h : Hw) : Hw :=
  setBus k { busRecord h k with state := .held, lease := leaseStart h, hold := none } h

/-- Entry to a state in which neither timer runs (R106, R107). -/
def enterUntimed (k : BusId) (st : BusState) (h : Hw) : Hw :=
  setBus k { busRecord h k with state := st, lease := none, hold := none } h

/-- HELD when there is a holder, FREE otherwise (R104, R105). -/
def enterIdle (k : BusId) (h : Hw) : Hw :=
  if (busRecord h k).holder.isSome then enterHeld k h else enterUntimed k .free h

/-- Whether a port is the holder of a bus. -/
def isHolder (h : Hw) (p : Port) (k : BusId) : Bool := (busRecord h k).holder == some p

/-- A command of the holder that names the bus: the lease restarts in HELD and READY, the hold in READY (R106, R107). The
hold restarts at READ BUS and at a refused SELECT PAIR too: the model's choice (log 48). -/
def touchBus (p : Port) (k : BusId) (h : Hw) : Hw :=
  if isHolder h p k then
    let b := busRecord h k
    match b.state with
    | .ready => setBus k { b with lease := leaseStart h, hold := holdStart h } h
    | .held => setBus k { b with lease := leaseStart h } h
    | .free | .selecting | .busy | .deselecting => h
  else h

/-- The pair field of a bus, and with it the bus field of the pair's record (R102): a change of the record. -/
def setBusPair (k : BusId) (n : PairIx) (on : Bool) (h : Hw) : Hw :=
  recordChanged n (setBus k { busRecord h k with pair := if on then some n else none } h)

/-- The events of a bus (R115). -/
def postDone (k : BusId) (h : Hw) : Hw := post (.done k) h
def postAborted (k : BusId) (h : Hw) : Hw := post (.aborted k) h

end Sys2Proof.Machine
end

