-- ==== Sys2Proof/Machine/Measure.lean ====
section
/-! DEFINITION. The measurement unit (R118 to R141): the request FIFO, result records, stages and verdicts, ends and
aborts of commands, the profile ROM, overlay channels and lookups. -/

namespace Sys2Proof.Machine

/-! ### Result records (R123) -/

def resultOf (h : Hw) (k : BusId) : ResultRecord := h.meas.results.get k

def setResult (k : BusId) (r : ResultRecord) (h : Hw) : Hw :=
  { h with meas := { h.meas with results := h.meas.results.set k r } }

/-- Opening a command clears the record; it takes the command, the pair and RUNNING, and for MEASURE and VERIFY the set
and the profile (R123). -/
def openResult (k : BusId) (c : TestCmd) (n : Option PairIx) (set : MeasSet)
    (profile : Option (Fin 16 × ProfileSource)) (h : Hw) : Hw :=
  setResult k { ResultRecord.cleared with command := some c, pair := n, status := .running, set, profile } h

/-- Closing sets the status, the error kind, the verdict and the closed-at time (R123). -/
def closeResult (k : BusId) (st : ResultStatus) (e : Option ErrorKind) (v : Verdict) (h : Hw) : Hw :=
  setResult k { resultOf h k with status := st, error := e, verdict := v, closedAt := some h.seconds } h

/-- Whether a command writes a last-test summary and takes a verdict (R6, R134): MEASURE and VERIFY. -/
def isMeasurement : TestCmd → Bool
  | .measure | .verify => true
  | .select | .tone => false

/-- The verdict of a command that ends ABORTED (R134); a SELECT and a TONE take none (log 28). -/
def abortedVerdict (c : Option TestCmd) : Verdict :=
  if c.any isMeasurement then .error else .none

/-- The summary that the end of the bus's command asks for (R6, R137). -/
def summaryOf (k : BusId) (v : Verdict) (h : Hw) : Hw :=
  let r := resultOf h k
  match r.pair with
  | some n => if r.command.any isMeasurement then writeSummary n v (r.profile.map Prod.fst) h else h
  | none => h

/-! ### The request FIFO (R119, R120) -/

/-- The duration of a stage, in ms (R120). -/
def stageMs : Stage → Nat
  | .foreign => 40 | .loop => 120 | .leak => 300 | .cap => 200

/-- The start of a stage of the front request: its setup and its timer (R120). -/
def startStage (k : BusId) (st : Stage) (h : Hw) : Hw :=
  { h with meas := { h.meas with stage := some st, stageTimer := some (stageMs st), setup := some (k, st) } }

/-- The front of the FIFO starts its FOREIGN stage; with no request the stage is IDLE and the idle setup is sent (R119). -/
def startFront (h : Hw) : Hw :=
  match h.meas.fifo with
  | [] => { h with meas := { h.meas with stage := none, stageTimer := none, setup := none } }
  | r :: _ => startStage r.bus .foreign h

/-- A request joins the end of the FIFO (R119). -/
def joinFifo (r : TestRequest) (h : Hw) : Hw :=
  let wasEmpty := h.meas.fifo.isEmpty
  let h := { h with meas := { h.meas with fifo := h.meas.fifo ++ [r] } }
  if wasEmpty then startFront h else h

/-- The place of a bus's request in the FIFO: 1, 2, or 0 for none (R132, R139). -/
def fifoPlace (h : Hw) (k : BusId) : Nat :=
  match h.meas.fifo.findIdx? fun r => r.bus == k with
  | some i => i + 1
  | none => 0

/-- Whether the request of a bus is in progress (R119). -/
def isFront (h : Hw) (k : BusId) : Bool := h.meas.fifo.head?.any fun r => r.bus == k

/-- Take a bus's request out of the FIFO, wherever it stands. -/
def dropRequest (k : BusId) (h : Hw) : Hw :=
  { h with meas := { h.meas with fifo := h.meas.fifo.filter fun r => r.bus != k } }

/-- A tone setup turns the tone source of a bus on or off (R118). -/
def setTone (k : BusId) (t : Timer) (h : Hw) : Hw :=
  { h with meas := { h.meas with tones := h.meas.tones.set k t } }

/-- The stage timer stops and the idle setup is sent (R138, step 1). -/
def idleSetup (h : Hw) : Hw := { h with meas := { h.meas with stage := none, stageTimer := none, setup := none } }

/-! ### Ends of commands (R137, R138) -/

/-- A command of bus k ends on the unit's own account (R137). -/
def endCommand (k : BusId) (st : ResultStatus) (e : Option ErrorKind) (v : Verdict) (h : Hw) : Hw :=
  let front := isFront h k
  let h := summaryOf k v (closeResult k st e v h)
  let h := if st = .done then postDone k h else postAborted k h
  let h := setTone k none (dropRequest k (enterReady k h))
  if front then startFront h else h

/-- The measurement unit takes an abort naming bus k (R138). toReady says that the abort was made by STOP or with
POISONED, after which the bus returns to READY. -/
def abortCommand (k : BusId) (e : ErrorKind) (toReady : Bool) (h : Hw) : Hw :=
  if fifoPlace h k = 0 ∧ h.meas.tones.get k = none then h
  else
    let front := isFront h k
    let v := abortedVerdict (resultOf h k).command
    let h := setTone k none (dropRequest k h)
    let h := if front then idleSetup h else h
    let h := summaryOf k v (closeResult k .aborted (some e) v h)
    let h := if e = .stopped then h else postAborted k h
    let h := if toReady then enterReady k h else h
    if front then startFront h else h

/-! ### Readings and verdict flags (R121, R122, R134) -/

/-- LOOP is recorded up to 9999 ohms, above that as OVER (R122). -/
def readLoop (v : Nat) : Reading := if v ≤ 9999 then .value v else .over

/-- LEAK is recorded up to 65534 kilohms, above that as OVER (R122). -/
def readLeak (v : Nat) : Reading := if v ≤ 65534 then .value v else .over

/-- CAP is recorded up to 2000 nF, above that as OVER (R122). -/
def readCap (v : Nat) : Reading := if v ≤ 2000 then .value v else .over

/-- Whether a reading is OVER or exceeds a bound (R134). -/
def Reading.high (bound : Nat) : Reading → Bool
  | .value v => decide (bound < v)
  | .over => true

/-- Whether a reading is a value below a bound; OVER is never low (R134). -/
def Reading.low (bound : Nat) : Reading → Bool
  | .value v => decide (v < bound)
  | .over => false

/-- The profile copy of a VERIFY request (R118). -/
def TestJob.copy : TestJob → Option Profile
  | .verify p _ => some p
  | .measure | .tone _ => none

/-- The foreign limit of a request (R121). -/
def foreignLimitOf (j : TestJob) : Nat :=
  match j.copy with
  | some p => p.high.foreignMax.toNat
  | none => Config.foreignLimit

/-- The stages of a set, in order (R120). -/
def stagesOf (s : MeasSet) : List Stage :=
  (if s.loop then [.loop] else []) ++ (if s.leak then [.leak] else []) ++ (if s.cap then [.cap] else [])

/-- The stage after one, skipping those not in the set (R120). -/
def nextStage (s : MeasSet) : Stage → Option Stage
  | .foreign => (stagesOf s).head?
  | .loop => (stagesOf { s with loop := false }).head?
  | .leak => (stagesOf { s with loop := false, leak := false }).head?
  | .cap => none

/-- What the expiry of a stage records in the result record (R120 to R122, R134): the values, and for a VERIFY the
flags by comparison with its copy. -/
def recordStage (st : Stage) (job : TestJob) (v : Readings) (r : ResultRecord) : ResultRecord :=
  match st with
  | .foreign =>
    let r := { r with foreign := some v.foreign }
    match job.copy with
    | some p =>
      { r with flags := { r.flags with
        foreignHigh := r.flags.foreignHigh || decide (p.high.foreignMax.toNat < v.foreign.toNat) } }
    | none => r
  | .loop =>
    let x := readLoop v.loop
    let r := { r with loop := some x }
    match job.copy with
    | some p => { r with flags := { r.flags with
        loopHigh := r.flags.loopHigh || x.high (p.low.loopMax.toNat * 10) } }
    | none => r
  | .leak =>
    let a := readLeak v.leakA
    let b := readLeak v.leakB
    let r := { r with leakA := some a, leakB := some b }
    match job.copy with
    | some p => { r with flags := { r.flags with
        leakALow := r.flags.leakALow || a.low p.low.leakMin.toNat
        leakBLow := r.flags.leakBLow || b.low p.low.leakMin.toNat } }
    | none => r
  | .cap =>
    let x := readCap v.cap
    let r := { r with cap := some x }
    match job.copy with
    | some p => { r with flags := { r.flags with
        capLow := r.flags.capLow || x.low (p.high.capMin.toNat * 10)
        capHigh := r.flags.capHigh || x.high (p.high.capMax.toNat * 10) } }
    | none => r

/-- The verdict of a MEASURE or VERIFY that completes: PASS when no flag is set (R134). -/
def completedVerdict (f : VerdictFlags) : Verdict := if f = .empty then .pass else .fail

/-- The front request goes on: the next stage, or completion (R120). -/
def continueRequest (r : TestRequest) (st : Stage) (h : Hw) : Hw :=
  match nextStage r.set st with
  | some s => startStage r.bus s h
  | none => endCommand r.bus .done none (completedVerdict (resultOf h r.bus).flags) h

/-- The tone of a bus turns on: its request leaves the FIFO and the next becomes the front (R121). -/
def startTone (k : BusId) (seconds : Nat) (h : Hw) : Hw :=
  startFront (setTone k (some (seconds * 1000)) (dropRequest k h))

/-- The expiry of the stage timer for the request in progress (R120 to R122). -/
def stageEnd (r : TestRequest) (st : Stage) (v : Readings) (h : Hw) : Hw :=
  let h := setResult r.bus (recordStage st r.job v (resultOf h r.bus)) h
  match st with
  | .foreign =>
    if foreignLimitOf r.job < v.foreign.toNat then
      endCommand r.bus .aborted (some .foreign) (abortedVerdict (resultOf h r.bus).command) h
    else
      match r.job with
      | .tone s => startTone r.bus s h
      | .measure | .verify _ _ => continueRequest r st h
  | .loop | .leak => continueRequest r st h
  | .cap =>
    if readCap v.cap = .over then
      endCommand r.bus .aborted (some .overRange) (abortedVerdict (resultOf h r.bus).command) h
    else continueRequest r st h

/-! ### Profiles (R124 to R127) -/

/-- A row of the profile ROM. -/
def romRow (loop leak cap : Bool) (loopMax leakMin capMin capMax foreignMax : Nat) (number : Fin 16) : Profile :=
  ⟨⟨⟨loop, leak, cap⟩, byte loopMax, BitVec.ofNat 16 leakMin⟩, ⟨byte capMin, byte capMax, byte foreignMax, number⟩⟩

/-- The profile ROM (R124): loop max in units of 10 ohms, cap min and cap max in units of 10 nF, a dash stored as 0. -/
def profileRom (p : Fin 16) : Profile :=
  #v[romRow true true true 150 1000 2 150 10 0,
     romRow true true true 180 1000 2 200 10 1,
     romRow true true true 90 2000 1 80 10 2,
     romRow false true false 0 5000 0 0 5 3,
     romRow false true false 0 200 0 0 30 4,
     romRow true false false 150 0 0 0 10 5,
     romRow true true false 150 1000 0 0 10 6,
     romRow false false true 0 0 5 200 10 7,
     romRow true true true 255 500 0 255 60 8,
     romRow true true true 120 10000 3 120 5 9,
     romRow false true true 0 1000 2 150 10 10,
     romRow true false true 150 0 2 150 10 11,
     romRow false false false 0 0 0 0 5 12,
     romRow false false false 0 0 0 0 30 13,
     romRow true true true 150 1000 2 150 0 14,
     romRow true true true 255 0 0 255 255 15][p]

def channelOf (h : Hw) (c : Fin 4) : Channel := h.meas.channels[c]

def setChannel (c : Fin 4) (x : Channel) (h : Hw) : Hw :=
  { h with meas := { h.meas with channels := h.meas.channels.set c x } }

/-- Whether a channel is in effect (R125). -/
def Channel.inEffect (x : Channel) : Bool := x.state == .armed || x.state == .clearing

/-- The upset of one of a channel's three words (R125, R167). -/
def Channel.upset (x : Channel) : Fin 3 → Upset
  | 0 => x.target.upset | 1 => x.low.upset | 2 => x.high.upset

/-- A channel with a corrected word written back (R167). -/
def Channel.correct (x : Channel) : Fin 3 → Channel
  | 0 => { x with target := x.target.afterRead }
  | 1 => { x with low := x.low.afterRead }
  | 2 => { x with high := x.high.afterRead }

/-- A checked read of a word of a channel (R167); an uncorrectable one poisons the channel (R127). -/
def checkChannelWord (c : Fin 4) (w : Fin 3) (h : Hw) : Hw :=
  match ((channelOf h c).upset w).outcome with
  | .good => h
  | .corrected => noteCorrected (setChannel c ((channelOf h c).correct w) h)
  | .uncorrectable =>
    let h := recordUncorrectable (overlayIndex c w.val) h
    setChannel c { channelOf h c with poisoned := true } h

/-- Read the target words of some channels, in channel order. -/
def checkTargets (cs : List (Fin 4)) (h : Hw) : Hw := cs.foldl (fun h c => checkChannelWord c 0 h) h

/-- Whether a channel in effect, not poisoned, targets a profile. -/
def targets (h : Hw) (p : Fin 16) (c : Fin 4) : Bool :=
  (channelOf h c).inEffect && !(channelOf h c).poisoned && (channelOf h c).target.val == some p

/-- A lookup (R126): the effective profile with its source, or nothing when it ends in PROFILE. The channel's second word is
read before its third, and the third also after the second was uncorrectable: the model's choice (log 54). -/
def lookup (p : Fin 16) (h : Hw) : Option (Profile × ProfileSource) × Hw :=
  let h := checkTargets ((List.finRange 4).filter fun c => (channelOf h c).inEffect && !(channelOf h c).poisoned) h
  match (List.finRange 4).find? (targets h p) with
  | some c =>
    let h := checkChannelWord c 2 (checkChannelWord c 1 h)
    let x := channelOf h c
    if x.poisoned then (none, h) else (some (⟨x.low.val, x.high.val⟩, .channel c), h)
  | none =>
    if (List.finRange 4).any fun c => (channelOf h c).inEffect && (channelOf h c).poisoned then (none, h)
    else (some (profileRom p, .rom), h)

/-- A profile record in bytes (R194). -/
def profileBytes (p : Profile) : List Byte :=
  [encodeSet p.low.set, p.low.loopMax] ++ bytes2 p.low.leakMin.toNat ++
    [p.high.capMin, p.high.capMax, p.high.foreignMax, byte p.high.number.val]

/-- A reading in two bytes; OVER reads FFFFh, absent reads 0 (R194). -/
def readingBytes : Option Reading → List Byte
  | none => [0, 0]
  | some (.value v) => bytes2 v
  | some .over => [0xFF, 0xFF]

/-- The bus result record in 23 bytes (R194). -/
def resultBytes (r : ResultRecord) : List Byte :=
  [encodeTestCmd r.command, optionalByte (r.pair.map Fin.val), encodeStatus r.status, encodeError r.error,
   encodeSet r.set, optionalByte (r.profile.map fun p => p.1.val),
   (match r.profile with | some p => encodeSource p.2 | none => noneByte),
   bitOf r.foreign.isSome 0 ||| bitOf r.loop.isSome 1 ||| bitOf r.leakA.isSome 2 ||| bitOf r.leakB.isSome 3
     ||| bitOf r.cap.isSome 4 ||| bitOf r.closedAt.isSome 5,
   r.foreign.getD 0] ++
  readingBytes r.loop ++ readingBytes r.leakA ++ readingBytes r.leakB ++ readingBytes r.cap ++
  [bitOf r.flags.loopHigh 0 ||| bitOf r.flags.leakALow 1 ||| bitOf r.flags.leakBLow 2 ||| bitOf r.flags.capLow 3
     ||| bitOf r.flags.capHigh 4 ||| bitOf r.flags.foreignHigh 5,
   encodeVerdict r.verdict] ++
  bytesSeconds (r.closedAt.getD 0)

end Sys2Proof.Machine
end

