-- ==== Sys2Proof/Machine/TestBusOps.lean ====
section
/-! DEFINITION. The test bus unit's shared operations: deselection, release, aborts (R104 to R114), the requests that
blocks send one another inside an event (R90, R112, R113), and the end of an event (R57). -/

namespace Sys2Proof.Machine

/-! ### Deselection and release (R104, R105) -/

/-- Take a bus's pair off it and request its return move (R105, steps 1 and 2). -/
def takePairOff (k : BusId) (n : PairIx) (h : Hw) : Hw :=
  let h := setBusPair k n false h
  requestMove n (returnTarget h n) .testBus h

/-- Whether a pair's relay is on the bus or bound for it (R105, step 3). -/
def onOrBound (h : Hw) (k : BusId) (n : PairIx) : Bool :=
  let r := h.relay.pairs[n]
  r.pos == busPos k || (r.moving && r.target == busPos k)

/-- Start the deselection of a bus's pair (R105): the answer says whether the bus waits for a departure, whose pair it
then records. -/
def beginDeselect (k : BusId) (h : Hw) : Bool × Hw :=
  match (busRecord h k).pair with
  | none => (false, h)
  | some n =>
    let waits := onOrBound h k n
    let h := takePairOff k n h
    if waits then (true, setBus k { busRecord h k with departing := some n } h) else (false, h)

/-- Deselection by DESELECT or by the expiry of the hold (R105). -/
def deselectPair (k : BusId) (h : Hw) : Hw :=
  let (waits, h) := beginDeselect k h
  if waits then enterUntimed k .deselecting h else enterIdle k h

/-- The oldest entry of the wait list becomes the holder, with GRANTED; with none the holder becomes none (R104, step 3). -/
def handOver (k : BusId) (h : Hw) : Hw :=
  let b := busRecord h k
  match b.wait with
  | p :: rest => post (.granted k) (setBus k { b with holder := some p, wait := rest } h)
  | [] => setBus k { b with holder := none } h

/-- The causes of a release, by what they do to a command in BUSY and to a selection (R104). -/
inductive ReleaseCause where
  /-- RELEASE BUS, port clear, and the expiry of the lease (which finds neither). -/
  | withdrawn
  /-- FORCE RELEASE. -/
  | forced
  deriving DecidableEq, Repr

/-- A release ends the work in hand (R104, step 1). -/
def endWork (k : BusId) (cause : ReleaseCause) (h : Hw) : Hw :=
  match (busRecord h k).state with
  | .busy => abortCommand k (match cause with | .withdrawn => .stopped | .forced => .preempted) false h
  | .selecting =>
    closeResult k .aborted (match cause with | .withdrawn => none | .forced => some .preempted) .none h
  | .free | .held | .ready | .deselecting => h

/-- A release of a bus (R104). -/
def releaseBusOf (k : BusId) (cause : ReleaseCause) (h : Hw) : Hw :=
  let was := (busRecord h k).state
  let (waits, h) := beginDeselect k (endWork k cause h)
  let h := handOver k h
  if waits ∨ was = .deselecting then enterUntimed k .deselecting h else enterIdle k h

/-! ### Aborts (R112, R113) -/

/-- A selection is aborted: its record is closed, and ABORTED is posted (R112, R113). -/
def abortSelection (k : BusId) (e : ErrorKind) (h : Hw) : Hw :=
  postAborted k (closeResult k .aborted (some e) .none h)

/-- The work in hand of an abort that takes the pair off (R112, R113). -/
def abortWork (k : BusId) (e : ErrorKind) (h : Hw) : Hw :=
  match (busRecord h k).state with
  | .busy => abortCommand k e false h
  | .selecting => abortSelection k e h
  | .free | .held | .ready | .deselecting => h

/-- An abort takes the pair off the bus with its return move; the bus becomes HELD at once (R112, steps 2 and 3). -/
def abortToHeld (k : BusId) (e : ErrorKind) (h : Hw) : Hw :=
  let h := abortWork k e h
  match (busRecord h k).pair with
  | some n => enterHeld k (takePairOff k n h)
  | none => enterHeld k h

/-- A surge abort names a pair (R112). -/
def surgeAbort (n : PairIx) (h : Hw) : Hw :=
  allBuses.foldl (fun h k => if (busRecord h k).pair = some n then abortToHeld k .surge h else h) h

/-- A poison abort names a pair (R112): a MEASURE or VERIFY in BUSY ends with POISONED, the bus returning to READY. -/
def poisonAbort (n : PairIx) (h : Hw) : Hw :=
  allBuses.foldl
    (fun h k =>
      if (busRecord h k).pair = some n ∧ (busRecord h k).state = .busy ∧ (resultOf h k).command.any isMeasurement
      then abortCommand k .poisoned true h else h) h

/-- Entry to LOW or CRITICAL: the abort with POWER, on each bus in turn (R113, R163). That bus 0 is taken before bus 1 is the
model's choice (log 53). -/
def powerAbort (h : Hw) : Hw :=
  allBuses.foldl
    (fun h k =>
      match (busRecord h k).state with
      | .selecting | .ready | .busy => abortToHeld k .power h
      | .free | .held | .deselecting => h) h

/-- Entry to FAULT HOLD at one bus (R113). -/
def faultAbortBus (k : BusId) (h : Hw) : Hw :=
  let h := abortWork k .fault h
  let h := match (busRecord h k).pair with
    | some n => takePairOff k n h
    | none => h
  setBus k .reset h

/-- Entry to FAULT HOLD: the abort with FAULT, on each bus (R113). That bus 0 is taken before bus 1 is the model's choice
(log 53). -/
def faultAbort (h : Hw) : Hw := allBuses.foldl (fun h k => faultAbortBus k h) h

/-! ### Reports of the relay unit (R105, R109) -/

/-- DONE of a selection: the bus enters READY (R109). Any other DONE changes nothing. -/
def selectionDone (n : PairIx) (pos : RelayPos) (h : Hw) : Hw :=
  allBuses.foldl
    (fun h k =>
      let b := busRecord h k
      if b.state = .selecting ∧ b.pair = some n ∧ pos = busPos k then
        postDone k (enterReady k (closeResult k .done none .none h))
      else h) h

/-- The departure report of a pair from a bus (R105). -/
def departureReport (n : PairIx) (k : BusId) (h : Hw) : Hw :=
  let b := busRecord h k
  if b.state = .deselecting ∧ b.departing = some n then
    enterIdle k (setBus k { b with departing := none } h)
  else h

/-! ### Requests inside an event -/

/-- What the test bus unit does with a request (R90, R112, R113). -/
def takeRequest (r : Request) (h : Hw) : Hw :=
  match r with
  | .poisonAbort n => poisonAbort n h
  | .faultAbort => faultAbort h
  | .relayDone n pos => selectionDone n pos h
  | .departure n k => departureReport n k h

/-- Take the requests sent in this event, in the order sent (log 12). -/
def takeRequests : Nat → Hw → Hw
  | 0, h => { h with requests := [] }
  | fuel + 1, h =>
    match h.requests with
    | [] => h
    | r :: rest => takeRequests fuel (takeRequest r { h with requests := rest })

/-- A bound on the requests of one event: each pair is poisoned at most once, FAULT HOLD is entered at most once, and
each other request comes of a relay move that one of these or the event itself makes. -/
def requestFuel : Nat := 256

/-- The share scheduler sets to 0 the credit of each pair whose UPQ held a cell at the start of the event and holds
none at its end (R57). -/
def reportEmptied (before h : Hw) : Hw :=
  { h with sched := { h.sched with
      credit := Vector.ofFn fun n : PairIx =>
        if 0 < before.store.descriptors[upq n].fields.count ∧ h.store.descriptors[upq n].fields.count = 0
        then 0 else h.sched.credit[n] } }

/-- One event: what it does, the requests it sends, and the reports at its end. -/
def event (f : Hw → Hw) (h : Hw) : Hw := reportEmptied h (takeRequests requestFuel (f h))

end Sys2Proof.Machine
end

