-- ==== Sys2Proof/Machine/PortOps.lean ====
section
/-! DEFINITION. Port units and event unit (R180 to R191): frames and answers, register reads and writes, port clear, and
the owner's taking of a command (R182). -/

namespace Sys2Proof.Machine

def portOf (h : Hw) (p : Port) : PortUnit := h.ports.get p
def setPort (p : Port) (u : PortUnit) (h : Hw) : Hw := { h with ports := h.ports.set p u }
def eventsOf (h : Hw) (p : Port) : EventPort := h.events.get p
def setEventsOf (p : Port) (e : EventPort) (h : Hw) : Hw := { h with events := h.events.set p e }

/-! ### Answers (R182, R193) -/

/-- An answer: its code and its data. -/
structure Reply where
  code : AnswerCode
  data : List Byte
  deriving DecidableEq, Repr

/-- The answer frame (R193): code echo, answer code, M, M bytes. -/
def answerFrame (echo : Byte) (r : Reply) : AnswerBuffer :=
  ⟨[echo, encodeAnswer r.code, byte r.data.length] ++ r.data, 0⟩

/-- A port unit with an answer: the port is in ANSWER. -/
def PortUnit.answered (u : PortUnit) (echo : Byte) (r : Reply) : PortUnit :=
  { u with state := .answer, answer := some (answerFrame echo r), gapTimer := none, passed := none }

/-- The owner's answer reaches the port (R182, step 3): with the abort mark it is discarded, and the port becomes IDLE. -/
def deliver (p : Port) (c : Cmd) (r : Reply) (h : Hw) : Hw :=
  let u := portOf h p
  setPort p
    (if u.abortMark then { u with state := .idle, answer := none, abortMark := false, passed := none }
      else u.answered (cmdCode c) r) h

/-- What a command does: the state it leaves, and the answer, which is formed when the event's requests have been taken. -/
abbrev Body := Hw → Hw × (Hw → Reply)

/-- A command that is refused, or changes nothing and answers a code alone. -/
def answerOnly (c : AnswerCode) : Body := fun h => (h, fun _ => ⟨c, []⟩)

/-- Most commands are refused FAULT in FAULT HOLD (R174). -/
def unlessFault (b : Body) : Body := fun h => if h.integ.faultHold then answerOnly .fault h else b h

/-- An owner takes a command that a port has passed (R182): it does its work, the requests it sends are taken, and the
answer is formed. A command that the port has not passed, or that has been withdrawn (R186), is not taken. -/
def takeCommand (c : Cmd) (p : Port) (args : List Byte) (body : Body) (h : Hw) : Hw :=
  if (portOf h p).passed = some ⟨c, args⟩ then
    let x := body h
    let h' := reportEmptied h (takeRequests requestFuel x.1)
    deliver p c (x.2 h') h'
  else h

/-! ### Frame intake (R181, R182) -/

/-- A byte taken as the command code of a new frame (R181). -/
def PortUnit.begin (u : PortUnit) (b : Byte) : PortUnit :=
  { u with state := .collecting, frame := ⟨some b, none, []⟩, answer := none, gapTimer := some Config.gapMs }

/-- A complete frame is taken (R182). -/
def PortUnit.complete (p : Port) (u : PortUnit) : PortUnit :=
  let u := { u with gapTimer := none }
  let code := u.frame.code.getD 0
  match cmdOfCode code with
  | none => u.answered code ⟨.unknown, []⟩
  | some c =>
    if admits p c then { u with state := .working, passed := some ⟨c, u.frame.args⟩ }
    else u.answered code ⟨.denied, []⟩

/-- A byte in COLLECTING (R181). -/
def PortUnit.collect (p : Port) (u : PortUnit) (b : Byte) : PortUnit :=
  let u := { u with gapTimer := some Config.gapMs }
  match u.frame.count with
  | none =>
    if 14 < b.toNat then { u.answered (u.frame.code.getD 0) ⟨.range, []⟩ with frame := .empty }
    else
      let u := { u with frame := { u.frame with count := some b.toNat } }
      if b.toNat = 0 then u.complete p else u
  | some n =>
    let u := { u with frame := { u.frame with args := u.frame.args ++ [b] } }
    if u.frame.args.length < n then u else u.complete p

/-- A write at address 0 (R181). -/
def PortUnit.frameByte (p : Port) (u : PortUnit) (b : Byte) : PortUnit :=
  match u.state with
  | .idle | .answer => u.begin b
  | .collecting => u.collect p b
  | .working => { u with overrun := true }

/-- The expiry of the gap timer (R181). -/
def PortUnit.gapExpiry (u : PortUnit) : PortUnit :=
  if u.state = .collecting ∧ u.gapTimer.isSome then
    { u with state := .idle, frame := .empty, gap := true, gapTimer := none }
  else u

/-! ### Register reads (R183) and FRAME ABORT (R184) -/

/-- A read at address 0 (R183). -/
def PortUnit.answerRead (u : PortUnit) : PortUnit :=
  match u.state, u.answer with
  | .answer, some a =>
    let u := { u with dataOut := a.bytes.getD a.pos 0 }
    if a.pos + 1 < a.bytes.length then { u with answer := some { a with pos := a.pos + 1 } }
    else { u with answer := none, state := .idle }
  | _, _ => { u with dataOut := 0 }

/-- The status byte (R195). -/
def statusByte (u : PortUnit) (e : EventPort) : Byte :=
  encodePortState u.state ||| bitOf u.overrun 2 ||| bitOf u.gap 3 ||| bitOf e.int 4

/-- A read at address 1 (R183). -/
def PortUnit.statusRead (u : PortUnit) (e : EventPort) : PortUnit :=
  { u with dataOut := statusByte u e, overrun := false, gap := false }

/-- FRAME ABORT (R184). -/
def PortUnit.frameAbort (u : PortUnit) : PortUnit :=
  let u := { u with clearLatch := none }
  match u.state with
  | .idle => u
  | .collecting => { u with state := .idle, frame := .empty, gapTimer := none }
  | .working => { u with abortMark := true }
  | .answer => { u with state := .idle, answer := none }

/-! ### Port clear (R186) -/

/-- Step 1 of a port clear (R186). -/
def PortUnit.cleared (u : PortUnit) : PortUnit :=
  let working := u.state = .working
  { u with
    state := if working then .working else .idle
    frame := .empty
    answer := none
    abortMark := decide working
    overrun := false
    gap := false
    gapTimer := none
    takeLatch := none
    clearLatch := none }

/-- Empty a port's notice queue (R186, step 2). -/
def clearNotices (p : Port) (h : Hw) : Hw :=
  { h with pairTable := { h.pairTable with notices := h.pairTable.notices.set p [] } }

/-- Every pending flag of a port is cleared; condition-based flags whose condition holds are set again (R186, step 3). -/
def clearFlags (p : Port) (h : Hw) : Hw :=
  let e := eventsOf h p
  setEventsOf p { e with pending := Vector.ofFn fun g : Fin 8 => if e.enable[g] then conditionFlags h p g else 0 } h

/-- The test bus unit takes a port clear (R114, R186). That bus 0 is released before bus 1, when the port holds both, is the
model's choice (log 53). -/
def clearBuses (p : Port) (h : Hw) : Hw :=
  allBuses.foldl
    (fun h k =>
      if isHolder h p k then releaseBusOf k .withdrawn h
      else
        let b := busRecord h k
        setBus k { b with wait := b.wait.filter fun q => q ≠ p } h) h

/-- A port clear (R186). -/
def clearPort (p : Port) (h : Hw) : Hw :=
  clearBuses p (clearFlags p (clearNotices p (setPort p (portOf h p).cleared h)))

/-- A port clear at RESET PART: a command not yet taken is withdrawn, and the port becomes IDLE (R186, step 1). -/
def clearPortAtReset (p : Port) (h : Hw) : Hw :=
  let u := (portOf h p).cleared
  let h := setPort p { u with state := .idle, abortMark := false, passed := none } h
  clearBuses p (clearFlags p (clearNotices p h))

/-! ### Events at address 2 (R188, R189) and notices at address 3 (R19) -/

/-- A read at address 2 (R188). -/
def PortUnit.takeEvent (u : PortUnit) (e : EventPort) : PortUnit :=
  match u.takeLatch with
  | some b => { u with dataOut := b, takeLatch := none }
  | none =>
    match e.firstGroup with
    | some g => { u with dataOut := byte g.val, takeLatch := some e.pending[g] }
    | none => { u with dataOut := noneByte, takeLatch := some 0 }

/-- The flags a mask names are cleared from a group; condition-based ones whose condition holds are set again (R189). -/
def clearGroup (p : Port) (g : Fin 8) (mask : Byte) (h : Hw) : Hw :=
  let e := eventsOf h p
  if e.enable[g] then
    setEventsOf p
      { e with pending := e.pending.set g ((e.pending[g] &&& ~~~mask) ||| (conditionFlags h p g &&& mask)) } h
  else h

/-- A write at address 2 (R189). -/
def clearEventByte (p : Port) (b : Byte) (h : Hw) : Hw :=
  let u := portOf h p
  match u.clearLatch with
  | none => setPort p { u with clearLatch := some b } h
  | some g =>
    let h := setPort p { u with clearLatch := none } h
    match decodeFin 8 g with
    | some g => clearGroup p g b h
    | none => h

/-- The oldest notice of a port is taken off its queue (R18, R19). -/
def dropNotice (p : Port) (h : Hw) : Hw :=
  { h with pairTable := { h.pairTable with notices := h.pairTable.notices.set p (h.pairTable.notices.get p).tail } }

def oldestNotice (h : Hw) (p : Port) : Option PairIx := (h.pairTable.notices.get p).head?

/-- A read at address 3 (R19). -/
def noticeByte (p : Port) (h : Hw) : Hw :=
  let b := optionalByte ((oldestNotice h p).map Fin.val)
  dropNotice p (setPort p { portOf h p with dataOut := b } h)

end Sys2Proof.Machine
end

