-- ==== Sys2Proof/Machine/PowerOps.lean ====
section
/-! DEFINITION. The power unit (R152 to R163): the mode machine, the cap, the floor and stepping, and the evaluation of
pairs. -/

namespace Sys2Proof.Machine

/-! ### Pairs (R161, R162) -/

/-- Evaluate a pair against the floor (R161): a change of power or line power is one change of the record, after which
the pair table evaluates eligibility again. -/
def evaluatePair (n : PairIx) (h : Hw) : Hw :=
  let x := h.power.pairs[n]
  let powered := decide (x.tier.val < h.power.floor)
  let line := powered && x.service != .disabled
  if x.frozen || (powered == x.powered && line == x.line) then h
  else changing n (fun h => stepRecord n (setPowerPair n { x with powered, line } h)) h

/-- Evaluate all 24 pairs in the event of a floor change (R161), in pair order: the order is the model's choice (log 49). -/
def evaluateAll (h : Hw) : Hw := (List.finRange 24).foldl (fun h n => evaluatePair n h) h

/-- The pair table passes a new tier (R5, R162). -/
def passTier (n : PairIx) (t : Fin 4) (h : Hw) : Hw :=
  evaluatePair n (setPowerPair n { h.power.pairs[n] with tier := t } h)

/-- The pair table passes a new service (R4, R162). -/
def passService (n : PairIx) (s : Service) (h : Hw) : Hw :=
  evaluatePair n (setPowerPair n { h.power.pairs[n] with service := s } h)

/-- The pair table reports a rebuild (R162). -/
def passRebuild (n : PairIx) (s : Service) (t : Fin 4) (h : Hw) : Hw :=
  evaluatePair n (setPowerPair n { h.power.pairs[n] with tier := t, service := s, frozen := false } h)

/-! ### Cap and floor (R158 to R160) -/

/-- The cap of a mode and a thermal level; none in BRIDGE and RETURN (R158). -/
def capOf (m : PowerMode) (thermal : Bool) : Option Nat :=
  match m with
  | .start => some 0
  | .mains => some (if thermal then 2 else 4)
  | .battery => some (if thermal then 2 else 3)
  | .low => some 2
  | .critical => some 1
  | .bridge | .return => none

/-- The present cap (R158). -/
def cap (h : Hw) : Option Nat := capOf h.power.mode (h.power.thermalLevel == .high)

/-- A change of the floor (R153, R161): FLOOR is posted, and every pair is evaluated. -/
def setFloor (f : Nat) (h : Hw) : Hw :=
  if f = h.power.floor then h
  else evaluateAll (post .floor { h with power := { h.power with floor := f } })

def setStepTimer (t : Timer) (h : Hw) : Hw := { h with power := { h.power with stepTimer := t } }

/-- The step timer starts when the floor is below the cap, and is stopped otherwise (R159). -/
def stepTimerOn (h : Hw) : Hw :=
  if h.power.floor < (cap h).getD 0 then setStepTimer (some (h.power.stepInterval * 1000)) h else setStepTimer none h

/-- A floor above a bound falls to it at once, and the step timer stops (R159, R160). -/
def fallTo (bound : Nat) (h : Hw) : Hw :=
  if bound < h.power.floor then setFloor bound (setStepTimer none h) else h

/-- A step start (R159). -/
def stepStart (h : Hw) : Hw :=
  let h := setStepTimer none h
  if h.power.floor < (cap h).getD 0 then stepTimerOn (setFloor (h.power.floor + 1) h) else h

/-! ### The mode machine (R153 to R157) -/

def comparatorActive (h : Hw) : Bool := h.power.lowLevel == .high || h.power.criticalLevel == .high

/-- The battery mode by the comparators (R153). -/
def batteryMode (h : Hw) : PowerMode :=
  if h.power.criticalLevel = .high then .critical else if h.power.lowLevel = .high then .low else .battery

/-- The timers that run in a mode entered: grace in BRIDGE, restore in RETURN (R155, R156); the step timer stops on
leaving the stepping modes and at each entry to one (R159). -/
def enterMode (m : PowerMode) (h : Hw) : Hw :=
  { h with power := { h.power with
      mode := m
      modeSince := h.seconds
      graceTimer := if m = .bridge then some (h.power.graceTime * 1000) else none
      restoreTimer := if m = .return then some (h.power.restoreDelay * 1000) else none
      stepTimer := none } }

/-- Entry to LOW or CRITICAL sends the abort with POWER (R163). -/
def modeAbort (m : PowerMode) (h : Hw) : Hw :=
  match m with
  | .low | .critical => powerAbort h
  | .start | .mains | .bridge | .battery | .return => h

/-- A mode change (R153): MODE, the floor of the mode entered (R159), and the abort (R163). Setting the present mode
again is no change. -/
def setMode (m : PowerMode) (h : Hw) : Hw :=
  if m = h.power.mode then h
  else
    let h := post .mode (enterMode m h)
    let h := match cap h with
      | some c => stepStart (fallTo c h)
      | none => h
    modeAbort m h

/-- A report of SNS0 (R154 to R157). -/
def mainsReport (new : Level) (h : Hw) : Hw :=
  let h := { h with power := { h.power with mainsLevel := new } }
  match h.power.mode, new with
  | .start, .high => setMode .mains h
  | .start, .low => setMode (batteryMode h) h
  | .mains, .low =>
    if h.power.graceTime = 0 ∨ comparatorActive h then setMode (batteryMode h) h else setMode .bridge h
  | .bridge, .high => setMode .mains h
  | .battery, .high | .low, .high | .critical, .high =>
    if h.power.restoreDelay = 0 then setMode .mains h else setMode .return h
  | .return, .low => setMode (batteryMode h) h
  | _, _ => h

/-- What a recorded change of SNS1 or SNS2 does to the mode (R155, R156). -/
def comparatorReport (new : Level) (h : Hw) : Hw :=
  match h.power.mode with
  | .bridge => if new = .high then setMode (batteryMode h) h else h
  | .battery | .low | .critical => setMode (batteryMode h) h
  | .start | .mains | .return => h

/-- A report of SNS5 (R158): a cap that is lower brings the floor down, a cap that is higher makes a step start; in
BRIDGE and RETURN a floor above 2 falls to 2 at the onset (R160). A report of LOW that leaves the cap as it was, in LOW or
CRITICAL or at a first acceptance, makes no step start, also when the floor is below the cap: the model's choice (log 39). -/
def thermalReport (new : Level) (h : Hw) : Hw :=
  let old := cap h
  let h := { h with power := { h.power with thermalLevel := new } }
  match old, cap h with
  | some a, some b => if b < a then fallTo b h else if a < b then stepStart h else h
  | _, _ => if new = .high then fallTo 2 h else h

/-- The power unit takes a report of an input it consumes (R153). -/
def powerReport (i : SenseIx) (new : Level) (h : Hw) : Hw :=
  if i = 0 then mainsReport new h
  else if i = 1 then comparatorReport new { h with power := { h.power with lowLevel := new } }
  else if i = 2 then comparatorReport new { h with power := { h.power with criticalLevel := new } }
  else if i = 5 then thermalReport new h
  else h

end Sys2Proof.Machine
end

