-- ==== Sys2Proof/Machine/PairCommands.lean ====
section
/-! DEFINITION. The pair table's commands: READ PAIR, NEXT NOTICE, PROVISION, SET TIER, REBUILD PAIR (R18, R20 to R22,
R175). -/

namespace Sys2Proof.Machine

/-- The outcome of every command: the part goes on, and the queue of waiting commands is untouched. -/
def goOn (f : Hw → Hw) (s : State) : Host.Outcome State Fault Refusal := .next { s with hw := f s.hw }

/-- An owner's taking of a command, as an outcome (R182). -/
def taking (c : Cmd) (p : Port) (args : List Byte) (body : Body) (s : State) : Host.Outcome State Fault Refusal :=
  goOn (takeCommand c p args body) s

/-- The comparison of an expected version (R15): equality, unconditional when omitted. -/
def versionMatches (v : WideArg) (current : Half) : Bool :=
  match v with
  | .given x => x == current
  | .omitted | .part => true

/-- OK with a record's version when the answer is formed (R21). -/
def okVersion (n : PairIx) (h : Hw) : Reply := ⟨.ok, bytes2 (shownVersion h n).toNat⟩

/-- STALE with the current version (R15). -/
def stale (n : PairIx) : Body := fun h =>
  let v := shownVersion h n
  (h, fun _ => ⟨.stale, bytes2 v.toNat⟩)

/-- READ PAIR (R20). -/
def readPairBody (args : List Byte) : Body :=
  match arg args 0 with
  | none => answerOnly .missing
  | some b =>
    match decodePair b with
    | none => answerOnly .range
    | some n => fun h => (checkPair n h, fun h => ⟨.ok, viewOf h n⟩)

def execReadPair (p : Port) (args : List Byte) (s : State) : Host.Outcome State Fault Refusal :=
  taking .readPair p args (readPairBody args) s

/-- NEXT NOTICE (R18). -/
def nextNoticeBody (p : Port) : Body := fun h =>
  match oldestNotice h p with
  | none => (h, fun _ => ⟨.ok, [noneByte]⟩)
  | some n => (checkPair n (dropNotice p h), fun h => ⟨.ok, viewOf h n⟩)

def execNextNotice (p : Port) (args : List Byte) (s : State) : Host.Outcome State Fault Refusal :=
  taking .nextNotice p args (nextNoticeBody p) s

/-- PROVISION is applied (R21): the first word, the version and the notice when a value differs, and the change of
service passed to the power unit. -/
def applyProvision (n : PairIx) (service : Service) (weight : Fin 16) (h : Hw) : Hw :=
  let old := (storedPair h n).first.val
  if service = old.service ∧ weight = old.weight then h
  else
    changing n
      (fun h =>
        let h := stepRecord n (writeFirst n { old with service, weight } h)
        if service = old.service then h else passService n service h) h

/-- SET TIER is applied (R22): the first word, the version and the notice when the tier differs, and the tier passed to
the power unit. -/
def applyTier (n : PairIx) (tier : Fin 4) (h : Hw) : Hw :=
  let old := (storedPair h n).first.val
  if tier = old.tier then h else passTier n tier (stepRecord n (writeFirst n { old with tier } h))

/-- A conditional change of the stored part (R15, R21, R22): POISONED, also when the read of the first word finds it,
then STALE, then the change. Of a record that is already poisoned no word is read: the model's choice (log 60). -/
def changeStored (n : PairIx) (v : WideArg) (change : Hw → Hw) : Body := fun h =>
  if isPoisoned h n then answerOnly .poisoned h
  else
    let h := checkPairWord n 0 h
    if isPoisoned h n then answerOnly .poisoned h
    else if versionMatches v (shownVersion h n) then (change h, okVersion n)
    else stale n h

/-- PROVISION (R21). -/
def provisionBody (args : List Byte) : Body :=
  unlessFault <|
    match arg args 0 with
    | none => answerOnly .missing
    | some b =>
      if wideArg args 3 = .part then answerOnly .missing
      else
        match decodePair b with
        | none => answerOnly .range
        | some n =>
          if optionalOk decodeService (arg args 1) && optionalOk decodeWeight (arg args 2) then fun h =>
            changeStored n (wideArg args 3)
              (fun h =>
                let w := (storedPair h n).first.val
                applyProvision n (optionalOr decodeService w.service (arg args 1))
                  (optionalOr decodeWeight w.weight (arg args 2)) h) h
          else answerOnly .range

def execProvision (p : Port) (args : List Byte) (s : State) : Host.Outcome State Fault Refusal :=
  taking .provision p args (provisionBody args) s

/-- SET TIER (R22). -/
def setTierBody (args : List Byte) : Body :=
  unlessFault <|
    match arg args 0, arg args 1 with
    | some b, some t =>
      if wideArg args 2 = .part then answerOnly .missing
      else
        match decodePair b, decodeFin 4 t with
        | some n, some tier => changeStored n (wideArg args 2) (applyTier n tier)
        | _, _ => answerOnly .range
    | _, _ => answerOnly .missing

def execSetTier (p : Port) (args : List Byte) (s : State) : Host.Outcome State Fault Refusal :=
  taking .setTier p args (setTierBody args) s

/-- A stored part rebuilt (R175): fresh check bits, no last test, version 0. -/
def rebuiltStored (service : Service) (tier : Fin 4) (weight : Fin 16) : StoredPair :=
  ⟨.fresh ⟨service, tier, weight, 0⟩, .fresh .reset, .fresh 0⟩

/-- REBUILD PAIR is taken (R175), steps 1 to 4. -/
def applyRebuild (n : PairIx) (service : Service) (tier : Fin 4) (weight : Fin 16) (h : Hw) : Hw :=
  let h := changing n
    (fun h =>
      let h := { h with integ := { h.integ with poisoned := h.integ.poisoned.set n false } }
      postNotice n (setStored n (rebuiltStored service tier weight) h)) h
  passRebuild n service tier h

/-- The read of the three words that REBUILD PAIR makes before it writes any of them (R3, log 11), with the requests that
a word found damaged sends: they are taken while the record is poisoned. -/
def readForRebuild (n : PairIx) (h : Hw) : Hw := takeRequests requestFuel (checkPair n h)

/-- REBUILD PAIR (R175): what the read finds does not stop the command. -/
def rebuildPairBody (args : List Byte) : Body :=
  unlessFault <|
    match arg args 0, arg args 1, arg args 2, arg args 3 with
    | some b, some sv, some t, some w =>
      match decodePair b, decodeService sv, decodeFin 4 t, decodeWeight w with
      | some n, some service, some tier, some weight =>
        fun h => (applyRebuild n service tier weight (readForRebuild n h), okVersion n)
      | _, _, _, _ => answerOnly .range
    | _, _, _, _ => answerOnly .missing

def execRebuildPair (p : Port) (args : List Byte) (s : State) : Host.Outcome State Fault Refusal :=
  taking .rebuildPair p args (rebuildPairBody args) s

end Sys2Proof.Machine
end

