-- ==== Sys2Proof/Machine/BusCommands.lean ====
section
/-! DEFINITION. The test bus unit's commands: CLAIM BUS, RELEASE BUS, SELECT PAIR, DESELECT, FORCE RELEASE, SET BUS
TIMING, READ BUS (R103, R104, R108, R110, R114, R116), and its timers (R106, R107). -/

namespace Sys2Proof.Machine

/-- A command that names a bus: the timers of R106 and R107 restart when the holder issues it, whatever its answer. -/
def namingBus (p : Port) (args : List Byte) (b : Body) : Body := fun h =>
  match (arg args 0).bind decodeBus with
  | some k => b (touchBus p k h)
  | none => b h

/-- A command whose one argument is a bus (R104, R110, R114, R136). -/
def onBus (args : List Byte) (b : BusId → Body) : Body :=
  match arg args 0 with
  | none => answerOnly .missing
  | some x =>
    match decodeBus x with
    | none => answerOnly .range
    | some k => b k

/-- A port's place on a wait list, FFh when it is not there (R103, log 22). -/
def waitPlace (b : BusRecord) (p : Port) : Byte :=
  match b.wait.findIdx? fun q => q == p with
  | some i => byte (i + 1)
  | none => noneByte

/-- The items of CLAIM BUS (R103). -/
def claimReply (c : AnswerCode) (k : BusId) (p : Port) (h : Hw) : Reply :=
  let b := busRecord h k
  ⟨c, [encodeBusState b.state, encodeHolder b.holder, waitPlace b p]⟩

/-- The outcome of a claim (R103): the answer and what it does. The lease of a holder has been restarted already. -/
def claim (p : Port) (k : BusId) (wait : Bool) : Body := fun h =>
  let b := busRecord h k
  match b.holder with
  | none =>
    let h := setBus k { b with holder := some p } h
    ((if b.state = .free then enterHeld k h else h), claimReply .ok k p)
  | some q =>
    if q = p then (h, claimReply .ok k p)
    else if wait then
      (setBus k { b with wait := if p ∈ b.wait then b.wait else b.wait ++ [p] } h, claimReply .accepted k p)
    else (setBus k { b with wait := b.wait.filter fun q => q ≠ p } h, claimReply .held k p)

/-- CLAIM BUS (R103). -/
def claimBusBody (p : Port) (args : List Byte) : Body :=
  namingBus p args <| unlessFault <|
    match arg args 0 with
    | none => answerOnly .missing
    | some x =>
      match decodeBus x with
      | none => answerOnly .range
      | some k =>
        if optionalOk decodeBool (arg args 1) then claim p k (optionalOr decodeBool false (arg args 1))
        else answerOnly .range

def execClaimBus (p : Port) (args : List Byte) (s : State) : Host.Outcome State Fault Refusal :=
  taking .claimBus p args (claimBusBody p args) s

/-- The bus state and the holder, after a release (R104, R114). -/
def holderReply (k : BusId) (h : Hw) : Reply :=
  let b := busRecord h k
  ⟨.ok, [encodeBusState b.state, encodeHolder b.holder]⟩

/-- RELEASE BUS (R104). -/
def releaseBusBody (p : Port) (args : List Byte) : Body :=
  unlessFault <| onBus args fun k h =>
    if isHolder h p k then (releaseBusOf k .withdrawn h, holderReply k) else answerOnly .notHolder h

def execReleaseBus (p : Port) (args : List Byte) (s : State) : Host.Outcome State Fault Refusal :=
  taking .releaseBus p args (releaseBusBody p args) s

/-- Whether a pair's activity is within the activity window (R108): the seconds counter exceeds it by less than the
window. The difference is taken modulo the counter's wrap (log 21). -/
def withinWindow (h : Hw) (n : PairIx) : Bool :=
  match h.line.activity[n] with
  | none => false
  | some t => decide ((h.seconds - t).toNat < h.testBus.activityWindow)

/-- SELECT PAIR is taken (R108): the bus and its pair, the result record, the move request. -/
def applySelect (k : BusId) (n : PairIx) (h : Hw) : Hw :=
  let h := setBusPair k n true (enterUntimed k .selecting h)
  requestMove n (busPos k) .testBus (openResult k .select (some n) .empty none h)

/-- The checks of SELECT PAIR from POISONED on (R108, items 9 to 11). Of a record that is already poisoned no word is read:
the model's choice (log 60). -/
def selectChecked (k : BusId) (n : PairIx) (force : Bool) (v : WideArg) : Body := fun h =>
  if isPoisoned h n then answerOnly .poisoned h
  else
    let h := checkPairWord n 0 h
    if isPoisoned h n then answerOnly .poisoned h
    else if !force && withinWindow h n then answerOnly .inUse h
    else if versionMatches v (shownVersion h n) then
      (applySelect k n h, fun h => ⟨.accepted, bytes2 (shownVersion h n).toNat⟩)
    else stale n h

/-- Whether the power mode refuses a selection (R108, R163). -/
def refusesSelect (m : PowerMode) : Bool := m == .start || m == .low || m == .critical

/-- The checks of SELECT PAIR from NOT_HOLDER on (R108, items 4 to 8). -/
def select (p : Port) (k : BusId) (n : PairIx) (force : Bool) (v : WideArg) : Body := fun h =>
  if !isHolder h p k then answerOnly .notHolder h
  else if (busRecord h k).state ≠ .held then answerOnly .busy h
  else if refusesSelect h.power.mode then answerOnly .power h
  else if (busOf h n).isSome then answerOnly .busy h
  else if h.relay.pairs[n].guard ≠ .none then answerOnly .guarded h
  else selectChecked k n force v h

/-- SELECT PAIR (R108). -/
def selectPairBody (p : Port) (args : List Byte) : Body :=
  namingBus p args <| unlessFault <|
    match arg args 0, arg args 1 with
    | some b, some x =>
      if wideArg args 3 = .part then answerOnly .missing
      else
        match decodeBus b, decodePair x with
        | some k, some n =>
          if optionalOk decodeBool (arg args 2) then
            select p k n (optionalOr decodeBool false (arg args 2)) (wideArg args 3)
          else answerOnly .range
        | _, _ => answerOnly .range
    | _, _ => answerOnly .missing

def execSelectPair (p : Port) (args : List Byte) (s : State) : Host.Outcome State Fault Refusal :=
  taking .selectPair p args (selectPairBody p args) s

/-- DESELECT (R110). -/
def deselectBody (p : Port) (args : List Byte) : Body :=
  namingBus p args <| unlessFault <| onBus args fun k h =>
    if !isHolder h p k then answerOnly .notHolder h
    else
      match (busRecord h k).state with
      | .ready => (deselectPair k h, fun h => ⟨.ok, [encodeBusState (busRecord h k).state]⟩)
      | .held => answerOnly .noPair h
      | .selecting | .busy | .deselecting | .free => answerOnly .busy h

def execDeselect (p : Port) (args : List Byte) (s : State) : Host.Outcome State Fault Refusal :=
  taking .deselect p args (deselectBody p args) s

/-- FORCE RELEASE (R114). -/
def forceReleaseBody (args : List Byte) : Body :=
  unlessFault <| onBus args fun k h =>
    ((if (busRecord h k).holder.isSome then releaseBusOf k .forced (post (.preempted k) h) else h), holderReply k)

def execForceRelease (p : Port) (args : List Byte) (s : State) : Host.Outcome State Fault Refusal :=
  taking .forceRelease p args (forceReleaseBody args) s

/-- SET BUS TIMING (R116). -/
def setBusTimingBody (args : List Byte) : Body :=
  unlessFault <|
    if optionalOk (decodeRange 10 255) (arg args 0) && optionalOk (decodeRange 0 60) (arg args 1)
        && optionalOk (decodeRange 1 60) (arg args 2) then fun h =>
      ({ h with testBus := { h.testBus with
          leaseSetting := optionalOr (decodeRange 10 255) h.testBus.leaseSetting (arg args 0)
          holdSetting := optionalOr (decodeRange 0 60) h.testBus.holdSetting (arg args 1)
          activityWindow := optionalOr (decodeRange 1 60) h.testBus.activityWindow (arg args 2) } },
        fun h => ⟨.ok, [byte h.testBus.leaseSetting, byte h.testBus.holdSetting, byte h.testBus.activityWindow]⟩)
    else answerOnly .range

def execSetBusTiming (p : Port) (args : List Byte) (s : State) : Host.Outcome State Fault Refusal :=
  taking .setBusTiming p args (setBusTimingBody args) s

/-- READ BUS's items (R116). -/
def busBytes (t : TestBus) (b : BusRecord) : List Byte :=
  [encodeBusState b.state, encodeHolder b.holder, byte b.wait.length] ++ b.wait.map encodePort
  ++ [optionalByte (b.pair.map Fin.val), optionalByte (b.departing.map Fin.val)]
  ++ bytes3 (timerMs b.lease) ++ bytes2 (timerMs b.hold)
  ++ [byte t.leaseSetting, byte t.holdSetting, byte t.activityWindow]

/-- READ BUS (R116). -/
def readBusBody (p : Port) (args : List Byte) : Body :=
  namingBus p args <| onBus args fun k h => (h, fun h => ⟨.ok, busBytes h.testBus (busRecord h k)⟩)

def execReadBus (p : Port) (args : List Byte) (s : State) : Host.Outcome State Fault Refusal :=
  taking .readBus p args (readBusBody p args) s

/-! ### Timers -/

/-- The expiry of a lease (R106). -/
def leaseExpiry (k : BusId) (h : Hw) : Hw :=
  if (busRecord h k).lease.isSome then releaseBusOf k .withdrawn (post (.expired k) h) else h

def execLeaseExpiry (k : BusId) (s : State) : Host.Outcome State Fault Refusal := goOn (event (leaseExpiry k)) s

/-- The expiry of a hold (R107). -/
def holdExpiry (k : BusId) (h : Hw) : Hw :=
  if (busRecord h k).hold.isSome then deselectPair k (post (.holdEnd k) h) else h

def execHoldExpiry (k : BusId) (s : State) : Host.Outcome State Fault Refusal := goOn (event (holdExpiry k)) s

end Sys2Proof.Machine
end

