-- ==== Sys2Proof/Machine/GuardOps.lean ====
section
/-! DEFINITION. Guards (R92 to R96): surge onset and surge end of a cable block, the guard timer, and the return moves of
RESET PART (R101). -/

namespace Sys2Proof.Machine

/-- Change the guard of a pair (R8): a change of the record. -/
def setGuard (n : PairIx) (g : Guard) (h : Hw) : Hw := runRelay ((relayRun h).setGuard n g) h

def setGuardTimer (b : BlockIx) (t : Timer) (h : Hw) : Hw :=
  { h with relay := { h.relay with guardTimers := h.relay.guardTimers.set b t } }

def setSurgeLevel (b : BlockIx) (l : Level) (h : Hw) : Hw :=
  { h with relay := { h.relay with surgeLevels := h.relay.surgeLevels.set b l } }

/-- Make a move request for each of some pairs, in order, the relay unit itself the requester (R93, R94). Entries are started
after each request, and not once after all of them: the model's choice (log 52). -/
def requestAll (ns : List PairIx) (target : RelayPos) (h : Hw) : Hw :=
  ns.foldl (fun h n => requestMove n target .relayUnit h) h

/-- Surge onset on a block (R93). The guards of step 2 and the aborts of step 3 are taken in pair order: the model's choice
(log 56). -/
def surgeOnset (b : BlockIx) (h : Hw) : Hw :=
  let h := setGuardTimer b none h
  let struck := (blockPairs b).filter fun n => h.relay.pairs[n].guard == .none
  let h := struck.foldl (fun h n => setGuard n .surge h) h
  let h := struck.foldl (fun h n => surgeAbort n h) h
  requestAll (blockPairs b) .isolated h

/-- Surge end on a block (R94). -/
def surgeEnd (b : BlockIx) (h : Hw) : Hw :=
  if h.relay.guardTime = 0 then h else setGuardTimer b (some (h.relay.guardTime * 1000)) h

/-- The relay unit takes a report of a surge input (R92 to R94, R100). -/
def surgeReport (b : BlockIx) (old new : Level) (h : Hw) : Hw :=
  let h := setSurgeLevel b new h
  match old, new with
  | .low, .high | .unknown, .high => surgeOnset b h
  | .high, .low => surgeEnd b h
  | _, _ => h

/-- The expiry of a block's guard timer (R94). The guards are cleared in pair order: the model's choice (log 56). -/
def guardExpiry (b : BlockIx) (h : Hw) : Hw :=
  let h := setGuardTimer b none h
  let surged := (blockPairs b).filter fun n => h.relay.pairs[n].guard == .surge
  requestAll surged .through (surged.foldl (fun h n => setGuard n .none h) h)

/-! ### RESET PART (R101) -/

/-- The requester of every entry and of every move becomes the relay unit (R101). -/
def Relay.orphaned (u : Relay) : Relay :=
  { u with
    guardSection := u.guardSection.map fun e => { e with requester := .relayUnit }
    normalSection := u.normalSection.map fun e => { e with requester := .relayUnit }
    slots := u.slots.map fun s => s.map fun m => { m with requester := .relayUnit } }

def isBusPos (p : RelayPos) : Bool := p == .bus0 || p == .bus1

/-- Whether a pair has a bus as position or target, or in a queued entry (R101). -/
def boundForBus (u : Relay) (n : PairIx) : Bool :=
  isBusPos u.pairs[n].pos || isBusPos u.pairs[n].target
    || (u.guardSection ++ u.normalSection).any fun e => e.pair == n && isBusPos e.target

/-- The return moves of RESET PART, in pair order (R101). Entries are started after each request, as R88 has it, and after the
last: the model's choice (log 52). -/
def resetReturns (h : Hw) : Hw :=
  let ns := (List.finRange 24).filter fun n => boundForBus h.relay n
  let h := ns.foldl (fun h n => requestMove n (returnTarget h n) .relayUnit h) h
  runRelay (RelayRun.startEntries RelayRun.startFuel (relayRun h)) h

end Sys2Proof.Machine
end

