-- ==== Sys2Proof/Machine/TrunkOps.lean ====
section
/-! DEFINITION. The trunk interface and the share scheduler (R50 to R58, R68 to R84): headers, delineation, transmit
permission and opportunities, the choice of a pair, and transmission. -/

namespace Sys2Proof.Machine

/-! ### The header (R71, R196) -/

/-- One bit of the cyclic division by x^8+x^5+x^4+1 (R71). -/
def crcBit (r : Byte) (bit : Bool) : Byte :=
  if r.getLsbD 7 ^^ bit then (r <<< 1) ^^^ 0x31 else r <<< 1

/-- The division goes on through a byte, most significant bit first (R71). -/
def crcByte (r b : Byte) : Byte :=
  ([7, 6, 5, 4, 3, 2, 1, 0] : List Nat).foldl (fun r i => crcBit r (b.getLsbD i)) r

/-- The header check over the first two header bytes (R71). -/
def headerCheck (b0 b1 : Byte) : Byte := crcByte (crcByte 0 b0) b1

/-- The kind of a header byte, when it is valid (R71). -/
def decodeKind (b0 : Byte) : Option HeaderKind :=
  let k := b0 &&& 7
  if k = 0 then some .ordinary else if k = 1 then some .urgent else if k = 7 then some .idle else none

/-- Three bytes as a header: nothing when it is bad (R71, R196). -/
def readHeader (bytes : List Byte) : Option Header :=
  match bytes with
  | [b0, b1, b2] =>
    match decodeKind b0 with
    | some k =>
      if b2 = headerCheck b0 b1 ∧ 1 ≤ b1.toNat ∧ b1.toNat ≤ 64 then
        some ⟨⟨b0.toNat / 8, by omega⟩, k, b1.toNat⟩
      else none
    | none => none
  | _ => none

/-- The header of a cell sent (R81, R196). -/
def headerBytes (n : PairIx) (urgent : Bool) (len : Nat) : List Byte :=
  let b0 := byte (n.val * 8 + if urgent then 1 else 0)
  [b0, byte len, headerCheck b0 (byte len)]

/-- The 67 bytes of a cell sent: payload bytes beyond the length are 00h (R81). -/
def cellBytes (n : PairIx) (urgent : Bool) (len : Nat) (payload : List Byte) : List Byte :=
  (headerBytes n urgent len ++ payload ++ List.replicate 64 0).take 67

/-! ### The share scheduler (R51 to R58) -/

/-- The queue engine's answer on a pair's UPQ: its descriptor (R52). -/
def askQueue (n : PairIx) (h : Hw) : Descriptor × Hw :=
  let x := (storeRun h).openQueue (upq n)
  (x.1, runStore x.2 h)

/-- The pair table's answer on a pair's tier; nothing when the read poisons the pair (R52). -/
def askTier (n : PairIx) (h : Hw) : Option (Fin 4) × Hw :=
  let h := checkPairWord n 0 h
  (if isPoisoned h n then none else some (storedPair h n).first.val.tier, h)

/-- The urgent step's search (R53). -/
def findUrgent : List PairIx → Hw → Option PairIx × Hw
  | [], h => (none, h)
  | n :: rest, h =>
    if h.sched.eligible[n] then
      let x := askQueue n h
      if 0 < x.1.leadCount then (some n, x.2) else findUrgent rest x.2
    else findUrgent rest h

/-- The lifeline step's search (R54). -/
def findLifeline : List PairIx → Hw → Option PairIx × Hw
  | [], h => (none, h)
  | n :: rest, h =>
    if h.sched.eligible[n] then
      let t := askTier n h
      if t.1 = some 0 then
        let x := askQueue n t.2
        if 0 < x.1.count then (some n, x.2) else findLifeline rest x.2
      else findLifeline rest t.2
    else findLifeline rest h

def setCredit (n : PairIx) (c : Fin 16) (h : Hw) : Hw :=
  { h with sched := { h.sched with credit := h.sched.credit.set n c } }

/-- Whether a pair is a candidate of the credit round (R55). -/
def isCandidate (n : PairIx) (h : Hw) : Bool × Hw :=
  if h.sched.eligible[n] then
    let t := askTier n h
    match t.1 with
    | none => (false, t.2)
    | some tier =>
      if tier = 0 then (false, t.2)
      else
        let x := askQueue n t.2
        (decide (0 < x.1.count), x.2)
  else (false, h)

/-- The credit round's search: each pair passed over has its credit set to 0 (R55). -/
def findCandidate : List PairIx → Hw → Option PairIx × Hw
  | [], h => (none, h)
  | n :: rest, h =>
    let x := isCandidate n h
    if x.1 then (some n, x.2) else findCandidate rest (setCredit n 0 x.2)

/-- The TAKE of a served pair's UPQ into the trunk transmit hold (R51). -/
def takeUpstream (n : PairIx) (h : Hw) : Option StoreRun.Taken × Hw :=
  let x := (storeRun h).take (upq n) .trunkTx h.integ.faultHold
  (x.1, runStore x.2 h)

/-- Transmission of the cell in the trunk transmit hold begins (R81). -/
def startSending (n : PairIx) (t : StoreRun.Taken) (h : Hw) : Hw :=
  { h with trunk := { h.trunk with
      sending := some ⟨n, t.urgent, t.len, cellBytes n t.urgent t.len (h.store.readPayload t.cell t.len)⟩
      doneTimer := some Config.doneMs } }

/-- The share scheduler's three pointers. -/
def setUrgentPtr (n : PairIx) (h : Hw) : Hw := { h with sched := { h.sched with urgentPtr := n } }
def setTier0Ptr (n : PairIx) (h : Hw) : Hw := { h with sched := { h.sched with tier0Ptr := n } }
def setRoundPtr (n : PairIx) (h : Hw) : Hw := { h with sched := { h.sched with roundPtr := n } }

/-- Serve a pair: when the TAKE answers a cell, transmission begins and the step's own rule follows (R53, R54, R56, R58). -/
def serve (n : PairIx) (followed : Hw → Hw) (h : Hw) : Hw :=
  let x := takeUpstream n h
  match x.1 with
  | some t => followed (startSending n t x.2)
  | none => x.2

/-- The refill of a candidate that arrives with credit 0 (R55). -/
def refill (n : PairIx) (h : Hw) : Hw :=
  if h.sched.credit[n] = 0 then setCredit n (storedPair h n).first.val.weight h else h

/-- One credit less; a credit of 0 stays 0 (R56, R57). -/
def spend (c : Fin 16) : Fin 16 := ⟨c.val - 1, by omega⟩

/-- The charge of one credit, and whether the round pointer moves (R56). A pair that has lost exchange eligibility within
the TAKE, at an entry to FAULT HOLD, has credit 0 by then and keeps it (R57). -/
def charge (n : PairIx) (h : Hw) : Hw :=
  let c := spend h.sched.credit[n]
  let empty := h.store.descriptors[upq n].fields.count = 0
  let h := setCredit n (if empty then 0 else c) h
  if c = 0 ∨ empty then setRoundPtr (nextPair n) h else h

/-- The credit round (R55, R56). -/
def creditRound (h : Hw) : Hw :=
  let x := findCandidate (pairsFrom h.sched.roundPtr) h
  match x.1 with
  | some n => serve n (charge n) (refill n (setRoundPtr n x.2))
  | none => x.2

/-- The lifeline step, and the credit round when it finds nothing (R54). -/
def lifelineStep (h : Hw) : Hw :=
  let x := findLifeline (pairsFrom h.sched.tier0Ptr) h
  match x.1 with
  | some n => serve n (setTier0Ptr (nextPair n)) x.2
  | none => creditRound x.2

/-- A transmit opportunity (R51). -/
def opportunity (h : Hw) : Hw :=
  let x := findUrgent (pairsFrom h.sched.urgentPtr) h
  match x.1 with
  | some n => serve n (setUrgentPtr (nextPair n)) x.2
  | none => lifelineStep x.2

/-- A READY: an opportunity while transmission is permitted, dropped otherwise (R80). -/
def ready (h : Hw) : Hw := if h.trunk.permitted then opportunity h else h

/-! ### Transmit permission (R79, R80) -/

/-- The four conditions of R79. -/
def mayTransmit (h : Hw) : Bool :=
  h.trunk.transmitEnable && h.trunk.delineation == .locked && h.sense[10].accepted != .high && !h.integ.faultHold

/-- The transmit-permitted flag is evaluated again; a change to yes while TREADY is asserted makes a READY (R79, R80). -/
def evalPermission (tready : Bool) (h : Hw) : Hw :=
  let was := h.trunk.permitted
  let h := { h with trunk := { h.trunk with permitted := mayTransmit h } }
  if !was && h.trunk.permitted && tready then ready h else h

/-! ### Receive (R72 to R78) -/

def setTrunk (t : Trunk) (h : Hw) : Hw := { h with trunk := t }

/-- A departure from LOCKED: the lock loss count rises, and LOCK_LOST is posted (R75, R78). -/
def lockLost (h : Hw) : Hw :=
  post .lockLost (setTrunk
    { h.trunk with lockLosses := if h.trunk.lockLosses = 255 then 255 else h.trunk.lockLosses + 1 } h)

/-- The return to SEARCH with a window (R74, R75, R78): transmit permission is evaluated again. The cell position, which no
rule gives there, becomes 0, and no header byte is kept: the model's choice (log 45); so is the current cell (log 41). -/
def toSearch (window : List Byte) (h : Hw) : Hw :=
  let was := h.trunk.delineation
  let h := setTrunk { h.trunk with
    delineation := .search, window, position := 0, headerBytes := [], current := none
    confirmCount := 0, badRun := 0, silence := none } h
  evalPermission false (if was = .locked then lockLost h else h)

/-- The alignment is given up as at the expiry of the silence timer (R78): a held receive cell is freed. -/
def giveUpAlignment (h : Hw) : Hw := toSearch [] (releaseHold .trunkRx h)

/-- The length from the header goes into the link word of the cell granted (R68, R63). -/
def StoreRun.recordLength (c : CellIx) (len : Nat) (r : StoreRun) : StoreRun :=
  r.writeLink c { (r.store.link c).val with len }

/-- An allocation request of an interface (R27), with the length recorded in the link word when it is granted. -/
def allocateFor (urgent : Bool) (q : QueueIx) (hold : HoldName) (len : Nat) (h : Hw) : Option CellIx × Hw :=
  let x := (storeRun h).allocate urgent q hold h.integ.faultHold
  match x.1 with
  | some c => (some c, runStore (x.2.recordLength c len) h)
  | none => (none, runStore x.2 h)

/-- An admission request of an interface (R34). -/
def admitFrom (q : QueueIx) (urgent : Bool) (len : Nat) (hold : HoldName) (h : Hw) : Hw :=
  runStore ((storeRun h).admitOffer q urgent len hold h.integ.faultHold (queueEligible h (queuePair q))) h

/-- The pair a tag names (R68). -/
def tagPair (t : Fin 32) : Option PairIx := if h : t.val < 24 then some ⟨t.val, h⟩ else none

/-- Whether a header is of the urgent kind. -/
def Header.urgent (d : Header) : Bool := d.kind == .urgent

/-- A good header completed in LOCKED (R68, R76): whether its payload is kept. -/
def takeHeader (d : Header) (h : Hw) : Bool × Hw :=
  match tagPair d.tag with
  | some n =>
    if d.kind = .idle then (false, h)
    else
      let x := allocateFor d.urgent (dnq n) .trunkRx d.length h
      (x.1.isSome, x.2)
  | none => (false, h)

/-- The header of the current cell, with whether its payload is kept. -/
def setCurrent (d : Header) (kept : Bool) (h : Hw) : Hw := setTrunk { h.trunk with current := some ⟨d, kept⟩ } h

/-- A good header at its expected place in CONFIRM (R74). -/
def confirmHeader (d : Header) (tready : Bool) (h : Hw) : Hw :=
  let h := setCurrent d false (setTrunk { h.trunk with confirmCount := h.trunk.confirmCount + 1 } h)
  if h.trunk.confirmCount < 3 then h
  else evalPermission tready (post .lockGained (setTrunk { h.trunk with delineation := .locked, badRun := 0 } h))

/-- A good header in LOCKED (R75, R76). -/
def lockedHeader (d : Header) (h : Hw) : Hw :=
  let x := takeHeader d (setTrunk { h.trunk with badRun := 0 } h)
  setCurrent d x.1 x.2

/-- A bad header in LOCKED (R75). -/
def badHeader (bytes : List Byte) (h : Hw) : Hw :=
  let h := setTrunk { h.trunk with
    headerErrors := h.trunk.headerErrors + 1, badRun := h.trunk.badRun + 1, current := none } h
  if h.trunk.badRun < 5 then h else toSearch (bytes.drop 1) h

/-- Header completion in CONFIRM or LOCKED (R74, R75). -/
def headerComplete (bytes : List Byte) (tready : Bool) (h : Hw) : Hw :=
  match h.trunk.delineation, readHeader bytes with
  | .confirm, some d => confirmHeader d tready h
  | .confirm, none => toSearch (bytes.drop 1) h
  | .locked, some d => lockedHeader d h
  | .locked, none => badHeader bytes h
  | .search, _ => h

/-- A byte in SEARCH (R73). -/
def searchByte (b : Byte) (h : Hw) : Hw :=
  let window := (h.trunk.window ++ [b]).drop (h.trunk.window.length - 2)
  match readHeader window with
  | some d =>
    setTrunk { h.trunk with
      delineation := .confirm, window := [], position := 3, headerBytes := []
      current := some ⟨d, false⟩, confirmCount := 0, silence := some Config.silenceMs } h
  | none => setTrunk { h.trunk with window } h

/-- A byte of a header in CONFIRM or LOCKED (R74, R75). -/
def headerByte (b : Byte) (tready : Bool) (h : Hw) : Hw :=
  let bytes := h.trunk.headerBytes ++ [b]
  if bytes.length < 3 then setTrunk { h.trunk with headerBytes := bytes, position := h.trunk.position + 1 } h
  else headerComplete bytes tready (setTrunk { h.trunk with headerBytes := [], position := 3 } h)

/-- Write a payload byte into the slot of the cell in the trunk receive hold (R76). -/
def keepByte (i : Nat) (b : Byte) (h : Hw) : Hw :=
  match h.store.holds.trunkRx with
  | some c => { h with store := h.store.setPayloadByte c i b }
  | none => h

/-- Cell end (R69, R77). -/
def cellEnd (h : Hw) : Hw :=
  let cell := h.trunk.current
  let h := setTrunk { h.trunk with position := 0, current := cell.map fun c => { c with kept := false } } h
  match cell with
  | some ⟨d, true⟩ =>
    match tagPair d.tag with
    | some n => admitFrom (dnq n) d.urgent d.length .trunkRx h
    | none => h
  | _ => h

/-- A payload byte in CONFIRM or LOCKED (R74, R76). -/
def payloadByte (b : Byte) (h : Hw) : Hw :=
  let i := h.trunk.position - 3
  let h := if h.trunk.current.any CurrentCell.kept then keepByte i b h else h
  let h := setTrunk { h.trunk with position := h.trunk.position + 1 } h
  if h.trunk.position < 67 then h else cellEnd h

/-- A byte arrival on RXD (R72 to R78). -/
def receiveByte (b : Byte) (tready : Bool) (h : Hw) : Hw :=
  match h.trunk.delineation with
  | .search => searchByte b h
  | .confirm | .locked =>
    let h := setTrunk { h.trunk with silence := some Config.silenceMs } h
    if h.trunk.position < 3 then headerByte b tready h else payloadByte b h

/-! ### The end of a transmission (R81) -/

/-- The cell in the trunk transmit hold is released, and nothing more of it is sent (R81). -/
def endSending (h : Hw) : Hw :=
  releaseHold .trunkTx (setTrunk { h.trunk with sending := none, doneTimer := none } h)

end Sys2Proof.Machine
end

