-- ==== Sys2Proof/Machine/SenseOps.lean ====
section
/-! DEFINITION. The sense unit (R142 to R148): the filter, acceptances, their consumers, and the flags. -/

namespace Sys2Proof.Machine

def setSenseInput (i : SenseIx) (x : SenseInput) (h : Hw) : Hw := { h with sense := h.sense.set i x }

/-- The level of a sample. -/
def sampleLevel (b : Bool) : Level := if b then .high else .low

/-- What a sample makes of an input (R143 to R145): the accepted level changes at the third sample in a row of a new
level, or at once with the filter off. -/
def takeSample (x : SenseInput) (pin : Bool) : SenseInput :=
  let x := { x with lastSample := some pin, timer := periodMs x.period }
  if x.accepted = sampleLevel pin then { x with run := none }
  else if x.filter = false then { x with run := none, accepted := sampleLevel pin }
  else
    match x.run with
    | some ⟨level, second⟩ =>
      if level = pin then
        if second then { x with run := none, accepted := sampleLevel pin } else { x with run := some ⟨pin, true⟩ }
      else { x with run := some ⟨pin, false⟩ }
    | none => { x with run := some ⟨pin, false⟩ }

/-- Whether a trigger posts the flag at an acceptance of a level (R147, R148). -/
def triggerPosts (t : Trigger) (new : Level) : Bool :=
  match t with
  | .rising | .high => new == .high
  | .falling | .low => new == .low
  | .both => true

/-- The block of a surge input (R142). -/
def surgeBlock (i : SenseIx) : Option BlockIx :=
  if h : 6 ≤ i.val ∧ i.val ≤ 9 then some ⟨i.val - 6, by omega⟩ else none

/-- The consumer of an input takes the report of an acceptance (R142, R146). -/
def reportAcceptance (i : SenseIx) (old new : Level) (tready : Bool) (h : Hw) : Hw :=
  match surgeBlock i with
  | some b => surgeReport b old new h
  | none => if i = 10 then evalPermission tready h else powerReport i new h

/-- An expiry of an input's sample timer, with what the pin reads (R143, R146). -/
def sampleInput (i : SenseIx) (pin tready : Bool) (h : Hw) : Hw :=
  let old := h.sense[i].accepted
  let x := takeSample h.sense[i] pin
  let h := setSenseInput i x h
  if x.accepted = old then h
  else
    let h := reportAcceptance i old x.accepted tready h
    if triggerPosts x.trigger x.accepted then post (senseFlag i) h else h

end Sys2Proof.Machine
end

