-- ==== Sys2Proof/Machine/CabinetCommands.lean ====
section
/-! DEFINITION. The cabinet side's commands, SET SENSE, READ SENSE, SET POWER POLICY and READ POWER (R149, R150, R164,
R165), and its timers (R143, R155, R157, R159). -/

namespace Sys2Proof.Machine

/-! ### Sense unit -/

/-- The settings a SET SENSE gives (R149): a filter or a period given empties the run and restarts the timer. -/
def applySense (filter : Option Bool) (period : Option SamplePeriod) (trigger : Option Trigger) (x : SenseInput) :
    SenseInput :=
  let x := { x with
    filter := filter.getD x.filter
    period := period.getD x.period
    trigger := trigger.getD x.trigger }
  if filter.isSome || period.isSome then { x with run := none, timer := periodMs x.period } else x

/-- A new level trigger whose condition holds sets the flag (R148). -/
def postNewTrigger (i : SenseIx) (given : Bool) (h : Hw) : Hw :=
  if given && levelConditionHolds h.sense[i] then post (senseFlag i) h else h

/-- SET SENSE's items (R149): the settings now held and the accepted level. -/
def senseReply (i : SenseIx) (h : Hw) : Reply :=
  let x := h.sense[i]
  ⟨.ok, [flagByte x.filter, encodePeriod x.period, encodeTrigger x.trigger, encodeLevel x.accepted]⟩

/-- SET SENSE (R149). -/
def setSenseBody (args : List Byte) : Body :=
  unlessFault <|
    match arg args 0 with
    | none => answerOnly .missing
    | some b =>
      match decodeFin 12 b with
      | none => answerOnly .range
      | some i =>
        if optionalOk decodeBool (arg args 1) && optionalOk decodePeriod (arg args 2)
            && optionalOk decodeTrigger (arg args 3) then fun h =>
          (postNewTrigger i (arg args 3).isSome
            (setSenseInput i (applySense ((arg args 1).bind decodeBool) ((arg args 2).bind decodePeriod)
              ((arg args 3).bind decodeTrigger) h.sense[i]) h),
           senseReply i)
        else answerOnly .range

def execSetSense (p : Port) (args : List Byte) (s : State) : Host.Outcome State Fault Refusal :=
  taking .setSense p args (setSenseBody args) s

/-- A sample run: the candidate level, FFh when empty, and its count (R193, log 22). -/
def runBytes : Option SampleRun → List Byte
  | some r => [flagByte r.level, if r.second then 2 else 1]
  | none => [noneByte, 0]

/-- An input's items in READ SENSE (R150). -/
def senseBytes (x : SenseInput) : List Byte :=
  [encodeLevel x.accepted, encodeSample x.lastSample] ++ runBytes x.run
    ++ [flagByte x.filter, encodePeriod x.period, encodeTrigger x.trigger]

def readSenseBody : Body := fun h => (h, fun h => ⟨.ok, h.sense.toList.flatMap senseBytes⟩)

def execReadSense (p : Port) (args : List Byte) (s : State) : Host.Outcome State Fault Refusal :=
  taking .readSense p args readSenseBody s

/-- An expiry of an input's sample timer (R143). -/
def execSampleTimerExpiry (i : SenseIx) (pin tready : Bool) (s : State) : Host.Outcome State Fault Refusal :=
  goOn (event (sampleInput i pin tready)) s

/-! ### Power unit -/

/-- SET POWER POLICY (R164). -/
def setPowerPolicyBody (args : List Byte) : Body :=
  unlessFault <|
    if optionalOk (decodeRange 1 60) (arg args 2) then fun h =>
      ({ h with power := { h.power with
          graceTime := optionalOr (decodeRange 0 255) h.power.graceTime (arg args 0)
          restoreDelay := optionalOr (decodeRange 0 255) h.power.restoreDelay (arg args 1)
          stepInterval := optionalOr (decodeRange 1 60) h.power.stepInterval (arg args 2) } },
        fun h => ⟨.ok, [byte h.power.graceTime, byte h.power.restoreDelay, byte h.power.stepInterval]⟩)
    else answerOnly .range

def execSetPowerPolicy (p : Port) (args : List Byte) (s : State) : Host.Outcome State Fault Refusal :=
  taking .setPowerPolicy p args (setPowerPolicyBody args) s

/-- READ POWER's items (R165). -/
def powerBytes (h : Hw) : List Byte :=
  let u := h.power
  [encodeMode u.mode] ++ bytesSeconds u.modeSince
  ++ [byte u.floor, optionalByte (cap h), encodeLevel u.mainsLevel, encodeLevel u.lowLevel,
      encodeLevel u.criticalLevel, encodeLevel u.thermalLevel]
  ++ bytes3 (timerMs u.graceTimer) ++ bytes3 (timerMs u.restoreTimer) ++ bytes2 (timerMs u.stepTimer)
  ++ [byte u.graceTime, byte u.restoreDelay, byte u.stepInterval]
  ++ (u.pairs.toList.flatMap fun x => [flagByte x.powered, flagByte x.line, flagByte x.frozen])
  ++ [byte (u.pairs.toList.countP PowerPair.powered), byte (u.pairs.toList.countP PowerPair.line)]

def readPowerBody : Body := fun h => (h, fun h => ⟨.ok, powerBytes h⟩)

def execReadPower (p : Port) (args : List Byte) (s : State) : Host.Outcome State Fault Refusal :=
  taking .readPower p args readPowerBody s

/-- The expiry of the grace timer (R155). -/
def graceExpiry (h : Hw) : Hw := if h.power.graceTimer.isSome then setMode (batteryMode h) h else h

def execGraceTimerExpiry (s : State) : Host.Outcome State Fault Refusal := goOn (event graceExpiry) s

/-- The expiry of the restore timer (R157). -/
def restoreExpiry (h : Hw) : Hw := if h.power.restoreTimer.isSome then setMode .mains h else h

def execRestoreTimerExpiry (s : State) : Host.Outcome State Fault Refusal := goOn (event restoreExpiry) s

/-- The expiry of the step timer (R159): the floor rises by 1 toward the cap (log 24). -/
def stepExpiry (h : Hw) : Hw :=
  if h.power.stepTimer.isSome then
    let h := setStepTimer none h
    if h.power.floor < (cap h).getD 0 then stepTimerOn (setFloor (h.power.floor + 1) h) else h
  else h

def execStepTimerExpiry (s : State) : Host.Outcome State Fault Refusal := goOn (event stepExpiry) s

end Sys2Proof.Machine
end

