-- ==== Sys2Proof/Machine/TableOps.lean ====
section
/-! DEFINITION. Table RAM by word index (R167): the word's bits as read, and a checked read handled by area (R169), for
the scrubber (R172) and TABLE READ (R176). An upset is the outside's act on a word (log 6). -/

namespace Sys2Proof.Machine

def indexPair (i : Nat) : PairIx := ⟨i / 3 % 24, by omega⟩
def indexQueue (i : Nat) : QueueIx := ⟨(i - 72) / 3 % 48, by omega⟩
def indexGeneration (i : Nat) : QueueIx := ⟨(i - 216) % 48, by omega⟩
def indexOwner (i : Nat) : CellIx := ⟨(i - 265) % 2048, by omega⟩
def indexLink (i : Nat) : CellIx := ⟨(i - 2313) % 2048, by omega⟩
def indexChannel (i : Nat) : Fin 4 := ⟨(i - 4361) / 3 % 4, by omega⟩

/-- The place of a word within its group of three. -/
def indexWord (base i : Nat) : Fin 3 := ⟨(i - base) % 3, by omega⟩

/-- The upset of a descriptor's words (R29). -/
def DescriptorWords.upset (w : DescriptorWords) : Fin 3 → Upset
  | 0 => w.upset0 | 1 => w.upset1 | 2 => w.upset2

def DescriptorWords.setUpset (w : DescriptorWords) (u : Upset) : Fin 3 → DescriptorWords
  | 0 => { w with upset0 := u } | 1 => { w with upset1 := u } | 2 => { w with upset2 := u }

/-- The upset that stands on a word (R167). -/
def wordUpset (h : Hw) (i : Nat) : Upset :=
  match areaOf i with
  | .pair => (storedPair h (indexPair i)).upset (indexWord 0 i)
  | .descriptor => h.store.descriptors[indexQueue i].upset (indexWord 72 i)
  | .generation =>
    if i = freeGenerationIndex then h.store.freeGeneration.upset else h.store.generations[indexGeneration i].upset
  | .owner => (h.store.owner (indexOwner i)).upset
  | .link => (h.store.link (indexLink i)).upset
  | .overlay => (channelOf h (indexChannel i)).upset (indexWord 4361 i)

/-- A cell field as a number: END is 2048. -/
def cellNumber : Option CellIx → Nat
  | some c => c.val
  | none => 2048

def ownerFields : Owner → List Nat
  | .free g => [0, g.toNat]
  | .held => [1]
  | .queue q g => [2, q.val, g.toNat]
  | .retired => [3]

def linkFields (l : Link) : List Nat :=
  match l.next with
  | .cell c => [c.val, l.len]
  | .fin => [2048, l.len]
  | .broken => [2049, l.len]

def pairFields (x : StoredPair) : Fin 3 → List Nat
  | 0 => [(encodeService x.first.val.service).toNat, x.first.val.tier.val, x.first.val.weight.val,
          x.first.val.version.toNat]
  | 1 => [(encodeVerdict x.second.val.verdict).toNat, (optionalByte (x.second.val.profile.map Fin.val)).toNat]
  | 2 => [x.third.val.toNat]

/-- The fields of a descriptor, in the order of R29; no rule says which of its three words holds which field (log 5). -/
def descriptorFields (d : Descriptor) : List Nat :=
  [cellNumber d.head, cellNumber d.tail, d.count, d.limit, d.highMark, d.leadCount, cellNumber d.leadTail]

/-- Bytes 0 to 3 of the profile record, as a channel's second word holds them (R125, R194), byte 0 the most significant
(log 50). -/
def profileLowBits (x : ProfileLow) : BitVec 32 := encodeSet x.set ++ x.loopMax ++ x.leakMin

/-- Bytes 4 to 7 of the profile record, as a channel's third word holds them (R125, R194, log 50). -/
def profileHighBits (x : ProfileHigh) : BitVec 32 := x.capMin ++ x.capMax ++ x.foreignMax ++ byte x.number.val

/-- The fields of a channel's first word; its two record words have the layout of R194. -/
def channelFields (x : Channel) : List Nat := [(optionalByte (x.target.val.map Fin.val)).toNat]

/-- The fields last written to a word, as numbers. -/
def wordFields (h : Hw) (i : Nat) : List Nat :=
  match areaOf i with
  | .pair => pairFields (storedPair h (indexPair i)) (indexWord 0 i)
  | .descriptor => descriptorFields h.store.descriptors[indexQueue i].fields
  | .generation =>
    if i = freeGenerationIndex then [h.store.freeGeneration.val.toNat]
    else [h.store.generations[indexGeneration i].val.toNat]
  | .owner => ownerFields (h.store.owner (indexOwner i)).val
  | .link => linkFields (h.store.link (indexLink i)).val
  | .overlay => channelFields (channelOf h (indexChannel i))

/-- The 32 data bits last written to a word: those of an overlay channel's two record words as R194 lays the profile record
out; the layout of every other word is a free value (log 5). -/
def wordData (h : Hw) (i : Nat) : BitVec 32 :=
  if areaOf i = .overlay ∧ indexWord 4361 i = 1 then profileLowBits (channelOf h (indexChannel i)).low.val
  else if areaOf i = .overlay ∧ indexWord 4361 i = 2 then profileHighBits (channelOf h (indexChannel i)).high.val
  else Config.tableBits i (wordFields h i)

/-- The 39 bits of a word with one bit inverted, data bits 31 to 0 below check bits 6 to 0. -/
def flipBit (w : BitVec 39) (bit : Nat) : BitVec 39 := w ^^^ (1 <<< bit)

/-- The 39 bits of a word as they stand: as last written, with the upset bits inverted (R167, log 4). -/
def wordBits (h : Hw) (i : Nat) : BitVec 39 :=
  let good : BitVec 39 := Config.checkBits (wordData h i) ++ wordData h i
  match wordUpset h i with
  | .none => good
  | .single b => flipBit good b.val
  | .double b c => flipBit (flipBit good b.val) (if c.val < b.val then c.val else c.val + 1)

/-- Lightning upsets bits of a word (10_table_integrity.md; no command does): the upset that then stands. -/
def upsetWord (i : Nat) (u : Upset) (h : Hw) : Hw :=
  match areaOf i with
  | .pair =>
    let x := storedPair h (indexPair i)
    setStored (indexPair i)
      (match indexWord 0 i with
        | 0 => { x with first := ⟨x.first.val, u⟩ }
        | 1 => { x with second := ⟨x.second.val, u⟩ }
        | 2 => { x with third := ⟨x.third.val, u⟩ }) h
  | .descriptor =>
    let w := h.store.descriptors[indexQueue i].setUpset u (indexWord 72 i)
    { h with store := { h.store with descriptors := h.store.descriptors.set (indexQueue i) w } }
  | .generation =>
    if i = freeGenerationIndex then
      { h with store := { h.store with freeGeneration := ⟨h.store.freeGeneration.val, u⟩ } }
    else
      let w : Protected Byte := ⟨h.store.generations[indexGeneration i].val, u⟩
      { h with store := { h.store with generations := h.store.generations.set (indexGeneration i) w } }
  | .owner =>
    { h with store := h.store.setOwner (indexOwner i) ⟨(h.store.owner (indexOwner i)).val, u⟩ }
  | .link =>
    { h with store := h.store.setLink (indexLink i) ⟨(h.store.link (indexLink i)).val, u⟩ }
  | .overlay =>
    let x := channelOf h (indexChannel i)
    setChannel (indexChannel i)
      (match indexWord 4361 i with
        | 0 => { x with target := ⟨x.target.val, u⟩ }
        | 1 => { x with low := ⟨x.low.val, u⟩ }
        | 2 => { x with high := ⟨x.high.val, u⟩ }) h

namespace StoreRun

/-- A checked read of one word of a descriptor by the scrubber or TABLE READ (R167); an uncorrectable one breaks the queue
(R37). That this break reads neither of the other two words, and writes all three fresh, is the model's choice (log 55). -/
def readDescriptorWord (q : QueueIx) (w : Fin 3) (r : StoreRun) : StoreRun :=
  let x := r.store.descriptors[q]
  let u := x.upset w
  let r := r.check u (descriptorIndex q w.val)
  let r := r.modify fun s => { s with descriptors := s.descriptors.set q (x.setUpset (corrected u) w) }
  if u.outcome = .uncorrectable then r.breakQueue q true else r

/-- A checked read of a link word by the scrubber or TABLE READ (R40). -/
def readLinkWord (c : CellIx) (r : StoreRun) : StoreRun :=
  match r.readLink c with
  | (some _, r) => r
  | (none, r) => r.linkError c

/-- A checked read of an owner word by the scrubber or TABLE READ: one found uncorrectable is retired (R39); the
scrubber passes any other for reclaim (R41, R172), TABLE READ does not (R176). -/
def readOwnerWord (c : CellIx) (reclaims : Bool) (r : StoreRun) : StoreRun :=
  let bad := (r.store.owner c).upset.outcome = .uncorrectable
  let (o, r) := r.readOwner c
  if reclaims && !decide bad then r.reclaim c o else r

/-- A checked read of a word of the store, handled by area (R169). -/
def readWord (i : Nat) (reclaims : Bool) (r : StoreRun) : StoreRun :=
  match areaOf i with
  | .descriptor => r.readDescriptorWord (indexQueue i) (indexWord 72 i)
  | .generation =>
    if i = freeGenerationIndex then r.readFreeGeneration.2 else (r.readGeneration (indexGeneration i)).2
  | .owner => r.readOwnerWord (indexOwner i) reclaims
  | .link => r.readLinkWord (indexLink i)
  | .pair | .overlay => r

end StoreRun

/-- A checked read of the word at an index, handled by area (R169): reclaims is the scrubber's, not TABLE READ's. -/
def readTableWord (i : Nat) (reclaims : Bool) (h : Hw) : Hw :=
  match areaOf i with
  | .pair => checkPairWord (indexPair i) (indexWord 0 i) h
  | .overlay => checkChannelWord (indexChannel i) (indexWord 4361 i) h
  | .descriptor | .generation | .owner | .link => runStore ((storeRun h).readWord i reclaims) h

end Sys2Proof.Machine
end

