-- ==== Sys2Proof/Machine/ScrubOps.lean ====
section
/-! DEFINITION. The scrubber's step (R172). -/

namespace Sys2Proof.Machine

/-- The scrub timer at its interval: stopped when the interval is 0 (R172, R173). -/
def scrubStart (interval : Nat) : Timer := if interval = 0 then none else some interval

/-- A pass starts: a gate that is WAITING becomes IN_PASS (R172, step 1). -/
def passStart (h : Hw) : Hw :=
  if h.integ.cursor = 0 ∧ h.integ.gate = .waiting then
    { h with integ := { h.integ with gate := .inPass } }
  else h

/-- A pass ends (R172, step 4). -/
def passEnd (h : Hw) : Hw :=
  let h := { h with integ := { h.integ with
    passCount := h.integ.passCount + 1
    gate := if h.integ.gate = .inPass then .satisfied else h.integ.gate
    cursor := 0 } }
  post .scrubPass (runStore (storeRun h).publish h)

/-- The cursor goes on: the pass ends at the last word (R172, steps 4 and 5). -/
def advanceCursor (h : Hw) : Hw :=
  if h.integ.cursor + 1 = tableWords then passEnd h
  else { h with integ := { h.integ with cursor := h.integ.cursor + 1 } }

/-- An expiry of the scrub timer (R172). -/
def scrub (h : Hw) : Hw :=
  let i := h.integ.cursor
  let h := advanceCursor (readTableWord i true (passStart h))
  { h with integ := { h.integ with scrubTimer := scrubStart h.integ.scrubInterval } }

end Sys2Proof.Machine
end

