-- ==== Sys2Proof/Machine/IntegrityCommands.lean ====
section
/-! DEFINITION. The integrity unit's commands: READ INTEGRITY, ACK FAULT, TABLE READ, SET SCRUB, CLEAR CORRECTIONS and
RESET PART (R168, R171, R173, R176 to R179), and its timer (R172). -/

namespace Sys2Proof.Machine

/-- A record of an error: area, index and time; one that is none reads its area FFh and the rest 0 (R193). -/
def errorBytes : Option ErrorRecord → List Byte
  | some e => [encodeArea (areaOf e.index)] ++ bytes2 e.index ++ bytesSeconds e.time
  | none => noneByte :: List.replicate 6 0

/-- READ INTEGRITY's items (R177). -/
def integrityBytes (u : Integrity) : List Byte :=
  [u.corrections] ++ errorBytes u.pending ++ [encodeGate u.gate, flagByte u.faultHold,
    encodeHoldKind (u.holdCause.map Prod.fst)] ++ errorBytes (u.holdCause.map Prod.snd)
  ++ [byte u.scrubInterval] ++ bytes2 u.cursor ++ bytes2 u.passCount.toNat

def readIntegrityBody : Body := fun h => (h, fun h => ⟨.ok, integrityBytes h.integ⟩)

def execReadIntegrity (p : Port) (args : List Byte) (s : State) : Host.Outcome State Fault Refusal :=
  taking .readIntegrity p args readIntegrityBody s

/-- ACK FAULT (R171). -/
def ackFaultBody : Body :=
  unlessFault fun h =>
    match h.integ.pending, h.integ.gate with
    | none, _ => answerOnly .ok h
    | some e, .satisfied =>
      ({ h with integ := { h.integ with pending := none, gate := .none } }, fun _ => ⟨.ok, errorBytes (some e)⟩)
    | some _, g => (h, fun _ => ⟨.busy, [encodeGate g]⟩)

def execAckFault (p : Port) (args : List Byte) (s : State) : Host.Outcome State Fault Refusal :=
  taking .ackFault p args ackFaultBody s

/-- TABLE READ's items (R176), from the word as it stood when it was read. -/
def tableReply (i : Nat) (h : Hw) : Reply :=
  let w := wordBits h i
  let o := (wordUpset h i).outcome
  ⟨.ok, [encodeArea (areaOf i)] ++ bytes2 i ++ bytes4 (w.extractLsb' 0 32).toNat ++ [byte (w.extractLsb' 32 7).toNat,
    encodeOutcome o] ++ (if o = .corrected then bytes4 (wordData h i).toNat else [])⟩

/-- TABLE READ (R176). -/
def tableReadBody (args : List Byte) : Body :=
  match wideArg args 0 with
  | .omitted | .part => answerOnly .missing
  | .given v => fun h =>
    if v.toNat < tableWords then
      let r := tableReply v.toNat h
      (readTableWord v.toNat false h, fun _ => r)
    else answerOnly .range h

def execTableRead (p : Port) (args : List Byte) (s : State) : Host.Outcome State Fault Refusal :=
  taking .tableRead p args (tableReadBody args) s

/-- A scrub interval given is taken, and the timer starts at it (R173). -/
def applyScrub (interval : Option Byte) (h : Hw) : Hw :=
  match interval with
  | some b =>
    { h with integ := { h.integ with scrubInterval := b.toNat, scrubTimer := scrubStart b.toNat } }
  | none => h

/-- SET SCRUB (R173). -/
def setScrubBody (args : List Byte) : Body :=
  unlessFault fun h =>
    (applyScrub (arg args 0) h,
      fun h => ⟨.ok, [byte h.integ.scrubInterval] ++ bytes2 h.integ.cursor ++ bytes2 h.integ.passCount.toNat⟩)

def execSetScrub (p : Port) (args : List Byte) (s : State) : Host.Outcome State Fault Refusal :=
  taking .setScrub p args (setScrubBody args) s

/-- CLEAR CORRECTIONS (R168). -/
def clearCorrectionsBody : Body :=
  unlessFault fun h =>
    let held := h.integ.corrections
    ({ h with integ := { h.integ with corrections := 0 } }, fun _ => ⟨.ok, [held]⟩)

def execClearCorrections (p : Port) (args : List Byte) (s : State) : Host.Outcome State Fault Refusal :=
  taking .clearCorrections p args clearCorrectionsBody s

/-- The expiry of the scrub timer (R172). -/
def scrubExpiry (h : Hw) : Hw := if h.integ.scrubTimer.isSome then scrub h else h

def execScrubTimerExpiry (s : State) : Host.Outcome State Fault Refusal := goOn (event scrubExpiry) s

/-! ### RESET PART (R178) -/

/-- The integrity unit's own state (R179). -/
def Integrity.partReset (u : Integrity) : Integrity :=
  { u with
    corrections := 0
    pending := none
    gate := .none
    faultHold := false
    holdCause := none
    scrubTimer := scrubStart u.scrubInterval
    cursor := 0
    passCount := 0 }

/-- The measurement unit ends its work (R141). -/
def Measurement.partReset (u : Measurement) : Measurement := { Measurement.reset with channels := u.channels }

/-- The test bus unit frees both buses and keeps its settings (R117). -/
def TestBus.partReset (u : TestBus) : TestBus := { u with bus := ⟨.reset, .reset⟩ }

/-- The trunk interface stops its work and restarts delineation; transmit enable is kept (R84). -/
def Trunk.partReset (u : Trunk) : Trunk := { Trunk.reset with transmitEnable := u.transmitEnable }

/-- The line bus controller keeps the activities (R66); what it last put on the line bus stands (log 25). -/
def LineBus.partReset (u : LineBus) : LineBus := { u with pollPtr := 0, eligible := LineBus.reset.eligible }

/-- Whether RESET PART rebuilds a record: it is poisoned, or a word of it cannot be read (R24, log 19). -/
def rebuiltAtReset (h : Hw) (n : PairIx) : Bool :=
  let x := storedPair h n
  isPoisoned h n || x.first.upset.outcome == .uncorrectable || x.second.upset.outcome == .uncorrectable
    || x.third.upset.outcome == .uncorrectable

/-- The stored part of a pair after RESET PART (R24). -/
def resetStored (h : Hw) (n : PairIx) : StoredPair :=
  if rebuiltAtReset h n then .reset
  else
    let x := storedPair h n
    ⟨.fresh { x.first.val with version := x.first.val.version + 1 }, x.second.afterRead, x.third.afterRead⟩

/-- Steps 1 to 4 of RESET PART (R178). -/
def resetBlocks (h : Hw) : Hw :=
  let poisonedNow := h.integ
  { h with
    integ := { poisonedNow.partReset with poisoned := Vector.replicate 24 false }
    meas := h.meas.partReset
    testBus := h.testBus.partReset
    store := h.store.rebuilt
    trunk := h.trunk.partReset
    line := h.line.partReset
    sched := .reset
    relay := h.relay.orphaned
    pairTable := { h.pairTable with stored := Vector.ofFn fun n => resetStored h n } }

/-- Both eligibilities of every pair are evaluated (R24, R178 step 7). -/
def refreshAll (h : Hw) : Hw := (List.finRange 24).foldl (fun h n => refresh n h) h

/-- Step 7 of RESET PART (R178): the rebuilt records are reported, the return moves requested, eligibility and transmit
permission evaluated. -/
def workAfterReset (rebuilt : List PairIx) (h : Hw) : Hw :=
  let h := rebuilt.foldl (fun h n => passRebuild n ServiceWord.reset.service ServiceWord.reset.tier h) h
  evalPermission false (refreshAll (resetReturns h))

/-- RESET PART (R178). -/
def resetPart (h : Hw) : Hw :=
  let rebuilt := (List.finRange 24).filter (rebuiltAtReset h)
  let h := resetBlocks h
  let h := clearPortAtReset .tst (clearPortAtReset .trk (clearPortAtReset .sup h))
  let h := (List.finRange 24).foldl (fun h n => postNotice n h) h
  workAfterReset rebuilt h

def resetPartBody : Body := fun h => (resetPart h, fun _ => ⟨.ok, []⟩)

def execResetPart (p : Port) (args : List Byte) (s : State) : Host.Outcome State Fault Refusal :=
  taking .resetPart p args resetPartBody s

end Sys2Proof.Machine
end

