-- ==== Sys2Proof/Machine/LineOps.lean ====
section
/-! DEFINITION. The line bus controller (R60 to R67): the search for a pair to poll, delivery and pickup. -/

namespace Sys2Proof.Machine

/-- The pair to poll: the first member of the eligible set from the poll pointer on (R61). -/
def pairToPoll (h : Hw) : Option PairIx := (pairsFrom h.line.pollPtr).find? fun n => h.line.eligible[n]

/-- The delivery part of a poll (R62): what went to the card is held as the last delivery. -/
def deliverCell (n : PairIx) (h : Hw) : Hw :=
  let x := (storeRun h).take (dnq n) .lineOut h.integ.faultHold
  let h := runStore x.2 h
  match x.1 with
  | some t =>
    let sent : Delivery := ⟨n, if t.urgent then 1 else 0, byte t.len, h.store.readPayload t.cell t.len⟩
    releaseHold .lineOut { h with line := { h.line with delivered := some sent } }
  | none => h

/-- The kind of an offer: urgent or ordinary, nothing when it is malformed (R60, R63). -/
def offerUrgent (o : CardOffer) : Option Bool :=
  if 1 ≤ o.length.toNat ∧ o.length.toNat ≤ 64 then
    if o.kind = 0 then some false else if o.kind = 1 then some true else none
  else none

/-- Activity is set at every pickup (R63, R67). -/
def setActivity (n : PairIx) (h : Hw) : Hw :=
  { h with line := { h.line with activity := h.line.activity.set n (some h.seconds) } }

/-- The pickup part of a poll (R63, R64). -/
def pickUp (n : PairIx) (o : CardOffer) (h : Hw) : Hw :=
  let h := setActivity n h
  match offerUrgent o with
  | none => h
  | some urgent =>
    let len := o.length.toNat
    let x := allocateFor urgent (upq n) .lineIn len h
    match x.1 with
    | some c =>
      let h := { x.2 with store := x.2.store.writePayload c (o.payload.toList.take len) }
      admitFrom (upq n) urgent len .lineIn h
    | none => x.2

/-- A poll of a pair (R61): the slot is addressed, then the delivery, then the pickup. -/
def poll (n : PairIx) (card : CardSignals) (h : Hw) : Hw :=
  let h := { h with line := { h.line with pollPtr := nextPair n, slot := some n } }
  let h := if card.lrdy then deliverCell n h else h
  match card.offer with
  | some o => pickUp n o h
  | none => h

end Sys2Proof.Machine
end

