-- ==== Sys2Proof/Machine/LineEvents.lean ====
section
/-! DEFINITION. The line bus controller's event: the expiry of the poll timer (R61). -/

namespace Sys2Proof.Machine

/-- An expiry of the poll timer (R61): with an empty eligible set no poll is made. -/
def pollExpiry (card : CardSignals) (h : Hw) : Hw :=
  match pairToPoll h with
  | some n => poll n card h
  | none => h

def execPollTimerExpiry (card : CardSignals) (s : State) : Host.Outcome State Fault Refusal :=
  goOn (event (pollExpiry card)) s

end Sys2Proof.Machine
end

