-- ==== Sys2Proof/Machine/MeasureCommands.lean ====
section
/-! DEFINITION. The measurement unit's commands: MEASURE, VERIFY, TONE, STOP, READ RESULT, READ PROFILE and the five
OVERLAY commands (R128 to R136, R139), and its timers (R120, R137). -/

namespace Sys2Proof.Machine

/-- The refusals of the test bus unit (R111); nothing when the command is passed on. -/
def gate (p : Port) (k : BusId) (stopping : Bool) (h : Hw) : Option AnswerCode :=
  if !isHolder h p k then some .notHolder
  else
    match (busRecord h k).state with
    | .held => some .noPair
    | .selecting | .deselecting | .free => some .busy
    | .busy => if stopping then none else some .busy
    | .ready => none

/-- A test command on the pair of a bus that the test bus unit passes on (R111). -/
def onTestedPair (p : Port) (k : BusId) (b : PairIx → Body) : Body := fun h =>
  match gate p k false h, (busRecord h k).pair with
  | some c, _ => answerOnly c h
  | none, none => answerOnly .noPair h
  | none, some n => b n h

/-- A request is accepted (R132, R133, R135): it joins the FIFO, and the bus enters BUSY. The answer is its place as it
joins, also for a VERIFY whose own lookup has entered FAULT HOLD, which takes the request away within the event: the model's
choice (log 61). -/
def acceptRequest (r : TestRequest) : Body := fun h =>
  let h := joinFifo r h
  let place := fifoPlace h r.bus
  (enterUntimed r.bus .busy h, fun _ => ⟨.accepted, [byte place]⟩)

/-- MEASURE (R132). The POISONED check reads no word of the record, as that of VERIFY does not: the model's choice
(log 60). -/
def measureBody (p : Port) (args : List Byte) : Body :=
  namingBus p args <| unlessFault <| onBus args fun k =>
    let set := optionalOr decodeSet ⟨true, true, true⟩ (arg args 1)
    if optionalOk decodeSet (arg args 1) && set != .empty then
      onTestedPair p k fun n h =>
        if isPoisoned h n then answerOnly .poisoned h
        else acceptRequest ⟨k, n, .measure, set⟩ (openResult k .measure (some n) set none h)
    else answerOnly .range

def execMeasure (p : Port) (args : List Byte) (s : State) : Host.Outcome State Fault Refusal :=
  taking .measure p args (measureBody p args) s

/-- A VERIFY whose lookup ends in PROFILE (R133): the record is opened and closed, the summary written, ABORTED posted.
The hold has been restarted already. -/
def verifyProfileEnd (k : BusId) (n : PairIx) (profile : Fin 16) (h : Hw) : Hw :=
  let h := closeResult k .aborted (some .profile) .error (openResult k .verify (some n) .empty none h)
  postAborted k (writeSummary n .error (some profile) h)

/-- The items of a VERIFY that ends in PROFILE and of a STOP that aborts (R133, R136): the status and the error kind. -/
def endedReply (e : ErrorKind) : Reply := ⟨.ok, [encodeStatus .aborted, encodeError (some e)]⟩

/-- A VERIFY is passed on (R133). The POISONED check reads no word of the record: the model's choice (log 60). -/
def verify (k : BusId) (profile : Fin 16) (n : PairIx) : Body := fun h =>
  if isPoisoned h n then answerOnly .poisoned h
  else
    let x := lookup profile h
    match x.1 with
    | some (copy, source) =>
      acceptRequest ⟨k, n, .verify copy source, copy.low.set⟩
        (openResult k .verify (some n) copy.low.set (some (profile, source)) x.2)
    | none => (verifyProfileEnd k n profile x.2, fun _ => endedReply .profile)

/-- VERIFY (R133). -/
def verifyBody (p : Port) (args : List Byte) : Body :=
  namingBus p args <| unlessFault <|
    match arg args 0, arg args 1 with
    | some b, some x =>
      match decodeBus b, decodeFin 16 x with
      | some k, some profile => onTestedPair p k (verify k profile)
      | _, _ => answerOnly .range
    | _, _ => answerOnly .missing

def execVerify (p : Port) (args : List Byte) (s : State) : Host.Outcome State Fault Refusal :=
  taking .verify p args (verifyBody p args) s

/-- TONE (R135). -/
def toneBody (p : Port) (args : List Byte) : Body :=
  namingBus p args <| unlessFault <|
    match arg args 0, wideArg args 1 with
    | some b, .given d =>
      match decodeBus b with
      | some k =>
        if 1 ≤ d.toNat ∧ d.toNat ≤ 600 then
          onTestedPair p k fun n h =>
            acceptRequest ⟨k, n, .tone d.toNat, .empty⟩ (openResult k .tone (some n) .empty none h)
        else answerOnly .range
      | none => answerOnly .range
    | _, _ => answerOnly .missing

def execTone (p : Port) (args : List Byte) (s : State) : Host.Outcome State Fault Refusal :=
  taking .tone p args (toneBody p args) s

/-- STOP (R136). -/
def stopBody (p : Port) (args : List Byte) : Body :=
  namingBus p args <| unlessFault <| onBus args fun k h =>
    match gate p k true h with
    | some c => answerOnly c h
    | none =>
      if (busRecord h k).state = .busy then (abortCommand k .stopped true h, fun _ => endedReply .stopped)
      else answerOnly .ok h

def execStop (p : Port) (args : List Byte) (s : State) : Host.Outcome State Fault Refusal :=
  taking .stop p args (stopBody p args) s

/-- READ RESULT's items (R139, R194). -/
def resultReply (h : Hw) (k : BusId) : Reply :=
  ⟨.ok, resultBytes (resultOf h k) ++ [byte (fifoPlace h k)]
    ++ bytes2 (secondsShown (timerMs (h.meas.tones.get k)))⟩

/-- READ RESULT (R139). -/
def readResultBody (p : Port) (args : List Byte) : Body :=
  namingBus p args <| onBus args fun k h => (h, fun h => resultReply h k)

def execReadResult (p : Port) (args : List Byte) (s : State) : Host.Outcome State Fault Refusal :=
  taking .readResult p args (readResultBody p args) s

/-! ### Profiles -/

/-- A channel's target as shown: FFh for none, FEh when it cannot be read (R194, log 23). -/
def targetByte (x : Channel) : Byte := if x.poisoned then 0xFE else optionalByte (x.target.val.map Fin.val)

/-- A channel entry of READ PROFILE (R194). -/
def channelEntry (x : Channel) : List Byte := [encodeChannelState x.state ||| bitOf x.poisoned 2, targetByte x]

/-- READ PROFILE's items (R131, R194). -/
def profileReply (found : Option (Profile × ProfileSource)) (h : Hw) : Reply :=
  ⟨.ok,
    (match found with
      | some (r, src) => encodeSource src :: profileBytes r
      | none => 0xFE :: List.replicate 8 0)
    ++ (List.finRange 4).flatMap fun c => channelEntry (channelOf h c)⟩

/-- READ PROFILE (R131). The target words of the channel table are read after the lookup, in channel order: the model's
choice (log 54). -/
def readProfileBody (args : List Byte) : Body :=
  match arg args 0 with
  | none => answerOnly .missing
  | some b =>
    match decodeFin 16 b with
    | none => answerOnly .range
    | some p => fun h =>
      let x := lookup p h
      let cs := (List.finRange 4).filter fun c => !(channelOf x.2 c).poisoned
      (checkTargets cs x.2, profileReply x.1)

def execReadProfile (p : Port) (args : List Byte) (s : State) : Host.Outcome State Fault Refusal :=
  taking .readProfile p args (readProfileBody args) s

/-- A command whose one argument is a channel (R128 to R130). -/
def onChannel (args : List Byte) (b : Fin 4 → Body) : Body :=
  unlessFault <|
    match arg args 0 with
    | none => answerOnly .missing
    | some x =>
      match decodeFin 4 x with
      | none => answerOnly .range
      | some c => b c

/-- The channel's state, target and poisoned flag (R128). -/
def channelReply (c : Fin 4) (h : Hw) : Reply :=
  let x := channelOf h c
  ⟨.ok, [encodeChannelState x.state, targetByte x, flagByte x.poisoned]⟩

/-- The channel's state and target (R129, R130). -/
def channelStateReply (c : Fin 4) (h : Hw) : Reply :=
  let x := channelOf h c
  ⟨.ok, [encodeChannelState x.state, targetByte x]⟩

/-- OVERLAY OPEN (R128). -/
def overlayOpenBody (args : List Byte) : Body :=
  onChannel args fun c h =>
    if (channelOf h c).state = .free then
      (setChannel c { Channel.reset with state := .loading } h, channelReply c)
    else answerOnly .busy h

def execOverlayOpen (p : Port) (args : List Byte) (s : State) : Host.Outcome State Fault Refusal :=
  taking .overlayOpen p args (overlayOpenBody args) s

/-- The eight record bytes of OVERLAY WRITE (R194), with the ranges of R128: nothing when one is broken. -/
def decodeRecord (target : Fin 16) (bytes : List Byte) : Option Profile :=
  match bytes with
  | [set, loopMax, leakHi, leakLo, capMin, capMax, foreignMax, number] =>
    match decodeSet set with
    | some s =>
      if capMin.toNat ≤ capMax.toNat ∧ number.toNat = target.val then
        some ⟨⟨s, loopMax, wide leakHi leakLo⟩, ⟨capMin, capMax, foreignMax, target⟩⟩
      else none
    | none => none
  | _ => none

/-- OVERLAY WRITE (R128). -/
def overlayWriteBody (args : List Byte) : Body :=
  unlessFault <|
    if args.length < 10 then answerOnly .missing
    else
      match (arg args 0).bind (decodeFin 4), (arg args 1).bind (decodeFin 16) with
      | some c, some target =>
        match decodeRecord target ((args.drop 2).take 8) with
        | some r => fun h =>
          if (channelOf h c).state = .loading then
            (setChannel c ⟨.loading, false, .fresh (some target), .fresh r.low, .fresh r.high⟩ h, channelReply c)
          else answerOnly .busy h
        | none => answerOnly .range
      | _, _ => answerOnly .range

def execOverlayWrite (p : Port) (args : List Byte) (s : State) : Host.Outcome State Fault Refusal :=
  taking .overlayWrite p args (overlayWriteBody args) s

/-- Whether another channel in effect reads the same target or is poisoned (R129). -/
def blocksArm (h : Hw) (c : Fin 4) (target : Fin 16) (d : Fin 4) : Bool :=
  let x := channelOf h d
  d != c && x.inEffect && (x.poisoned || x.target.val == some target)

/-- The checks of OVERLAY ARM from the channel's own target word on (R129, items 4 to 6). The other channels' target words
are read in channel order: the model's choice (log 54); which of them are read is log 40's. -/
def arm (c : Fin 4) : Body := fun h =>
  let h := checkChannelWord c 0 h
  let x := channelOf h c
  match x.target.read with
  | none => answerOnly .poisoned h
  | some none => answerOnly .busy h
  | some (some target) =>
    if x.poisoned then answerOnly .poisoned h
    else
      let h := checkTargets ((List.finRange 4).filter fun d => d != c && (channelOf h d).inEffect) h
      if (List.finRange 4).any (blocksArm h c target) then answerOnly .duplicate h
      else (setChannel c { x with state := .armed } h, channelStateReply c)

/-- OVERLAY ARM (R129). -/
def overlayArmBody (args : List Byte) : Body :=
  onChannel args fun c h =>
    if (channelOf h c).state = .loading then arm c h else answerOnly .busy h

def execOverlayArm (p : Port) (args : List Byte) (s : State) : Host.Outcome State Fault Refusal :=
  taking .overlayArm p args (overlayArmBody args) s

/-- A change of a channel's state (R130): BUSY unless it stands in the state asked for. -/
def moveChannel (c : Fin 4) (src dst : ChannelState) : Body := fun h =>
  if (channelOf h c).state = src then (setChannel c { channelOf h c with state := dst } h, channelStateReply c)
  else answerOnly .busy h

/-- OVERLAY RETIRE (R130). -/
def overlayRetireBody (args : List Byte) : Body := onChannel args fun c => moveChannel c .armed .clearing

def execOverlayRetire (p : Port) (args : List Byte) (s : State) : Host.Outcome State Fault Refusal :=
  taking .overlayRetire p args (overlayRetireBody args) s

/-- OVERLAY CLOSE (R130). -/
def overlayCloseBody (args : List Byte) : Body := onChannel args fun c => moveChannel c .clearing .free

def execOverlayClose (p : Port) (args : List Byte) (s : State) : Host.Outcome State Fault Refusal :=
  taking .overlayClose p args (overlayCloseBody args) s

/-! ### Timers -/

/-- The expiry of the stage timer (R120). -/
def stageExpiry (v : Readings) (h : Hw) : Hw :=
  match h.meas.fifo, h.meas.stage with
  | r :: _, some st => if h.meas.stageTimer.isSome then stageEnd r st v h else h
  | _, _ => h

def execStageTimerExpiry (v : Readings) (s : State) : Host.Outcome State Fault Refusal :=
  goOn (event (stageExpiry v)) s

/-- The expiry of a tone's time completes the TONE (R135, R137); a TONE takes no verdict (log 28). -/
def toneExpiry (k : BusId) (h : Hw) : Hw :=
  if (h.meas.tones.get k).isSome then endCommand k .done none .none h else h

def execToneExpiry (k : BusId) (s : State) : Host.Outcome State Fault Refusal := goOn (event (toneExpiry k)) s

end Sys2Proof.Machine
end

