-- ==== Sys2Proof/Machine/PortCommands.lean ====
section
/-! DEFINITION. The event unit's commands, SET EVENTS and SET MASK (R190, R191), and the accesses to a port's registers
(R180 to R189, R19). -/

namespace Sys2Proof.Machine

/-- A change of a group's enable (R187): OFF clears its flags; ON starts with the condition-based flags whose condition
holds (R17, R148). -/
def setEnable (p : Port) (g : Fin 8) (on : Bool) (h : Hw) : Hw :=
  let e := eventsOf h p
  if e.enable[g] = on then h
  else
    setEventsOf p
      { e with
        enable := e.enable.set g on
        pending := e.pending.set g (if on then conditionFlags h p g else 0) } h

def setLevel (p : Port) (g : Fin 8) (l : Fin 8) (h : Hw) : Hw :=
  let e := eventsOf h p
  setEventsOf p { e with level := e.level.set g l } h

/-- SET EVENTS's items (R190): INT is shown as 1 when asserted and 0 when deasserted, the model's choice (log 22). -/
def eventsReply (p : Port) (g : Fin 8) (h : Hw) : Reply :=
  let e := eventsOf h p
  ⟨.ok, [flagByte e.enable[g], byte e.level[g].val, e.pending[g], flagByte e.int]⟩

/-- Group 0 stays ON at level 0 (R187, R190). -/
def groupAllows (g : Fin 8) (on : Option Bool) (l : Option (Fin 8)) : Bool :=
  g != 0 || (on != some false && (l == none || l == some 0))

/-- SET EVENTS (R190). -/
def setEventsBody (p : Port) (args : List Byte) : Body :=
  unlessFault <|
    match arg args 0 with
    | none => answerOnly .missing
    | some b =>
      match decodeFin 8 b with
      | none => answerOnly .range
      | some g =>
        let on := (arg args 1).bind decodeBool
        let l := (arg args 2).bind (decodeFin 8)
        if optionalOk decodeBool (arg args 1) && optionalOk (decodeFin 8) (arg args 2) && groupAllows g on l then
          fun h =>
            let h := match on with
              | some v => setEnable p g v h
              | none => h
            let h := match l with
              | some v => setLevel p g v h
              | none => h
            (h, eventsReply p g)
        else answerOnly .range

def execSetEvents (p : Port) (args : List Byte) (s : State) : Host.Outcome State Fault Refusal :=
  taking .setEvents p args (setEventsBody p args) s

/-- SET MASK (R191): INT is shown as 1 when asserted and 0 when deasserted, the model's choice (log 22). -/
def setMaskBody (p : Port) (args : List Byte) : Body :=
  unlessFault <|
    match arg args 0 with
    | none => answerOnly .missing
    | some b =>
      match decodeFin 9 b with
      | none => answerOnly .range
      | some m => fun h =>
        (setEventsOf p { eventsOf h p with mask := m } h,
          fun h => ⟨.ok, [byte (eventsOf h p).mask.val, flagByte (eventsOf h p).int]⟩)

def execSetMask (p : Port) (args : List Byte) (s : State) : Host.Outcome State Fault Refusal :=
  taking .setMask p args (setMaskBody p args) s

/-! ### Register accesses -/

/-- An access that touches one port unit alone. -/
def onPort (p : Port) (f : PortUnit → PortUnit) (s : State) : Host.Outcome State Fault Refusal :=
  goOn (fun h => setPort p (f (portOf h p)) h) s

/-- A write at address 0 (R181, R182). -/
def execFrameByteWrite (p : Port) (b : Byte) (s : State) : Host.Outcome State Fault Refusal :=
  onPort p (fun u => u.frameByte p b) s

/-- The expiry of the gap timer (R181). -/
def execGapTimerExpiry (p : Port) (s : State) : Host.Outcome State Fault Refusal := onPort p PortUnit.gapExpiry s

/-- A read at address 0 (R183). -/
def execAnswerByteRead (p : Port) (s : State) : Host.Outcome State Fault Refusal := onPort p PortUnit.answerRead s

/-- A read at address 1 (R183). -/
def execStatusRead (p : Port) (s : State) : Host.Outcome State Fault Refusal :=
  onPort p (fun u => u.statusRead (eventsOf s.hw p)) s

/-- A control byte naming FRAME ABORT alone (R184). -/
def execFrameAbort (p : Port) (s : State) : Host.Outcome State Fault Refusal := onPort p PortUnit.frameAbort s

/-- A control byte naming PORT CLEAR (R184, R186). -/
def execPortClear (p : Port) (s : State) : Host.Outcome State Fault Refusal := goOn (event (clearPort p)) s

/-- A read at address 2 (R188). -/
def execTakeEvent (p : Port) (s : State) : Host.Outcome State Fault Refusal :=
  onPort p (fun u => u.takeEvent (eventsOf s.hw p)) s

/-- A write at address 2 (R189). -/
def execClearEvent (p : Port) (b : Byte) (s : State) : Host.Outcome State Fault Refusal :=
  goOn (clearEventByte p b) s

/-- A read at address 3 (R19). -/
def execNoticeRead (p : Port) (s : State) : Host.Outcome State Fault Refusal := goOn (noticeByte p) s

/-- A write at address 3, or a control byte naming neither request: nothing changes (R180, R184). -/
def execRegisterWriteIgnored (_p : Port) (_w : IgnoredWrite) (s : State) : Host.Outcome State Fault Refusal :=
  goOn id s

end Sys2Proof.Machine
end

