-- ==== Sys2Proof/Machine/QueueCommands.lean ====
section
/-! DEFINITION. The queue engine's commands: READ QUEUE, SET QUEUE LIMITS, FLUSH QUEUE, READ POOL (R44 to R47). -/

namespace Sys2Proof.Machine

/-- The queue that a pair and a direction of one queue name (R44, R45). -/
def queueNamed (pair dir : Byte) : Option QueueIx :=
  match decodePair pair, decodeDirection dir with
  | some n, some .up => some (upq n)
  | some n, some .down => some (dnq n)
  | _, _ => none

def descriptorOf (h : Hw) (q : QueueIx) : Descriptor := h.store.descriptors[q].fields

/-- The items of READ QUEUE (R44). -/
def queueBytes (h : Hw) (q : QueueIx) : List Byte :=
  let d := descriptorOf h q
  bytesCell d.head ++ bytesCell d.tail ++ bytes2 d.count ++ bytes2 d.leadCount ++ bytes2 d.limit ++ bytes2 d.highMark
    ++ [flagByte h.store.congested[q]]

/-- READ QUEUE (R44). -/
def readQueueBody (args : List Byte) : Body :=
  match arg args 0, arg args 1 with
  | some b, some d =>
    match queueNamed b d with
    | some q => fun h => (runStore ((storeRun h).openQueue q).2 h, fun h => ⟨.ok, queueBytes h q⟩)
    | none => answerOnly .range
  | _, _ => answerOnly .missing

def execReadQueue (p : Port) (args : List Byte) (s : State) : Host.Outcome State Fault Refusal :=
  taking .readQueue p args (readQueueBody args) s

/-- New values are written into a descriptor (R45); a descriptor that cannot be read breaks first, and omitted values
keep the defaults of the break. -/
def StoreRun.setLimits (q : QueueIx) (limit high : WideArg) (r : StoreRun) : StoreRun :=
  let (d, r) := r.openQueue q
  r.writeDescriptor q { d with limit := limit.orElse d.limit, highMark := high.orElse d.highMark }

/-- Whether a limit and a high mark are in range (R45). -/
def limitsInRange (limit high : WideArg) : Bool :=
  decide (limit.orElse 0 ≤ 511) && decide (1 ≤ high.orElse 1) && decide (high.orElse 1 ≤ 511)

/-- SET QUEUE LIMITS (R45). -/
def setQueueLimitsBody (args : List Byte) : Body :=
  unlessFault <|
    match arg args 0, arg args 1 with
    | some b, some d =>
      let limit := wideArg args 2
      let high := wideArg args 4
      if limit = .part ∨ high = .part then answerOnly .missing
      else
        match queueNamed b d with
        | some q =>
          if limitsInRange limit high then fun h =>
            (runStore ((storeRun h).setLimits q limit high) h,
              fun h =>
                let d := descriptorOf h q
                ⟨.ok, bytes2 d.limit ++ bytes2 d.highMark ++ bytes2 d.count⟩)
          else answerOnly .range
        | none => answerOnly .range
    | _, _ => answerOnly .missing

def execSetQueueLimits (p : Port) (args : List Byte) (s : State) : Host.Outcome State Fault Refusal :=
  taking .setQueueLimits p args (setQueueLimitsBody args) s

/-- The queues a direction names, upstream first (R46). -/
def queuesOf (n : PairIx) : Direction → List QueueIx
  | .up => [upq n]
  | .down => [dnq n]
  | .both => [upq n, dnq n]

/-- Flush some queues in order: the number of cells removed (R46). -/
def flushQueues : List QueueIx → Nat → Hw → Nat × Hw
  | [], count, h => (count, h)
  | q :: rest, count, h =>
    let x := (storeRun h).flush q
    flushQueues rest (count + x.1) (runStore x.2 h)

/-- FLUSH QUEUE (R46). -/
def flushQueueBody (args : List Byte) : Body :=
  unlessFault <|
    match arg args 0 with
    | none => answerOnly .missing
    | some b =>
      match decodePair b with
      | none => answerOnly .range
      | some n =>
        if optionalOk decodeDirection (arg args 1) then fun h =>
          let x := flushQueues (queuesOf n (optionalOr decodeDirection .both (arg args 1))) 0 h
          (x.2, fun _ => ⟨.ok, bytes2 x.1⟩)
        else answerOnly .range

def execFlushQueue (p : Port) (args : List Byte) (s : State) : Host.Outcome State Fault Refusal :=
  taking .flushQueue p args (flushQueueBody args) s

/-- READ POOL (R47). -/
def poolBytes (h : Hw) : List Byte :=
  bytes2 h.store.freeCount ++ bytes2 h.store.queued ++ [byte h.store.holds.count] ++ bytes2 h.store.retiredCount
    ++ bytes2 h.store.stranded ++ [flagByte h.store.poolLow]

def readPoolBody : Body := fun h => (h, fun h => ⟨.ok, poolBytes h⟩)

def execReadPool (p : Port) (args : List Byte) (s : State) : Host.Outcome State Fault Refusal :=
  taking .readPool p args readPoolBody s

end Sys2Proof.Machine
end

