-- ==== Sys2Proof/Machine/RelayCommands.lean ====
section
/-! DEFINITION. The relay unit's commands, ISOLATE, UNISOLATE, SET RELAY TIMING and READ RELAYS (R95, R96, R98, R99), and
its events (R86, R94). -/

namespace Sys2Proof.Machine

/-- The items of ISOLATE and UNISOLATE (R95). -/
def guardReply (n : PairIx) (h : Hw) : Reply :=
  let r := h.relay.pairs[n]
  ⟨.ok, [encodeGuard r.guard, encodePos r.pos, flagByte r.moving, encodePos r.target]
    ++ bytes2 (shownVersion h n).toNat⟩

/-- The version comparison of ISOLATE and UNISOLATE, made by the pair table (R95): it reads the first word when an
expected version is given (log 11), and a poisoned record compares as 0. That the word is read for it also of a record that
is poisoned already, where a single error is corrected and counted, is the model's choice (log 62). -/
def whenVersion (n : PairIx) (v : WideArg) (b : Body) : Body := fun h =>
  match v with
  | .given x =>
    let h := checkPairWord n 0 h
    if x = shownVersion h n then b h else stale n h
  | .omitted | .part => b h

/-- The arguments that ISOLATE and UNISOLATE share (R95, R96). -/
def onGuardedPair (args : List Byte) (b : PairIx → Body) : Body :=
  unlessFault <|
    match arg args 0 with
    | none => answerOnly .missing
    | some x =>
      if wideArg args 1 = .part then answerOnly .missing
      else
        match decodePair x with
        | none => answerOnly .range
        | some n => b n

/-- ISOLATE is taken (R95): a pair already MANUAL is left as it is. -/
def applyIsolate (n : PairIx) (h : Hw) : Hw :=
  if h.relay.pairs[n].guard = .manual then h
  else requestMove n .isolated .relayUnit (setGuard n .manual h)

/-- ISOLATE (R95). -/
def isolateBody (args : List Byte) : Body :=
  onGuardedPair args fun n h =>
    if (busOf h n).isSome then answerOnly .busy h
    else whenVersion n (wideArg args 1) (fun h => (applyIsolate n h, guardReply n)) h

def execIsolate (p : Port) (args : List Byte) (s : State) : Host.Outcome State Fault Refusal :=
  taking .isolate p args (isolateBody args) s

/-- UNISOLATE is taken (R96): a pair without a guard is left as it is. -/
def applyUnisolate (n : PairIx) (h : Hw) : Hw :=
  if h.relay.pairs[n].guard = .none then h
  else requestMove n .through .relayUnit (setGuard n .none h)

/-- UNISOLATE (R96). -/
def unisolateBody (args : List Byte) : Body :=
  onGuardedPair args fun n h =>
    if h.relay.surgeLevels[blockOf n] = .high then answerOnly .busy h
    else whenVersion n (wideArg args 1) (fun h => (applyUnisolate n h, guardReply n)) h

def execUnisolate (p : Port) (args : List Byte) (s : State) : Host.Outcome State Fault Refusal :=
  taking .unisolate p args (unisolateBody args) s

/-- SET RELAY TIMING (R98). -/
def setRelayTimingBody (args : List Byte) : Body :=
  unlessFault <|
    if optionalOk (decodeRange 2 30) (arg args 0) then fun h =>
      ({ h with relay := { h.relay with
          settleTime := optionalOr (decodeRange 2 30) h.relay.settleTime (arg args 0)
          guardTime := optionalOr (decodeRange 0 255) h.relay.guardTime (arg args 1) } },
        fun h => ⟨.ok, [byte h.relay.settleTime, byte h.relay.guardTime]⟩)
    else answerOnly .range

def execSetRelayTiming (p : Port) (args : List Byte) (s : State) : Host.Outcome State Fault Refusal :=
  taking .setRelayTiming p args (setRelayTimingBody args) s

/-- A pair's items in READ RELAYS (R99). -/
def relayPairBytes (r : RelayPair) : List Byte :=
  [encodePos r.pos, flagByte r.moving, encodePos r.target, encodeGuard r.guard]

/-- An entry's items in READ RELAYS (R99): the class is 0 GUARD, 1 NORMAL (R193). -/
def entryBytes (e : Entry) : List Byte :=
  [byte e.pair.val, encodePos e.target, if e.target = .isolated then 0 else 1]

/-- A move's items in READ RELAYS (R99). -/
def moveBytes (m : Move) : List Byte := [byte m.pair.val, encodePos m.target, byte m.remaining]

/-- READ RELAYS's items (R99). The moves in flight stand in the order of their slots: the model's choice (log 46). -/
def relayBytes (u : Relay) : List Byte :=
  let entries := u.guardSection ++ u.normalSection
  let moves := u.slots.toList.filterMap id
  u.pairs.toList.flatMap relayPairBytes
  ++ [byte entries.length] ++ entries.flatMap entryBytes
  ++ [byte moves.length] ++ moves.flatMap moveBytes
  ++ ((List.finRange 4).flatMap fun b =>
      [encodeLevel u.surgeLevels[b], byte (secondsShown (timerMs u.guardTimers[b]))])
  ++ [byte u.settleTime, byte u.guardTime]

def readRelaysBody : Body := fun h => (h, fun h => ⟨.ok, relayBytes h.relay⟩)

def execReadRelays (p : Port) (args : List Byte) (s : State) : Host.Outcome State Fault Refusal :=
  taking .readRelays p args readRelaysBody s

/-! ### Events -/

/-- The completion of a move (R86). -/
def execSettleTimerExpiry (slot : SlotIx) (s : State) : Host.Outcome State Fault Refusal :=
  goOn (event fun h => runRelay ((relayRun h).settle slot) h) s

/-- The expiry of a block's guard timer (R94). -/
def guardTimerExpiry (b : BlockIx) (h : Hw) : Hw :=
  if h.relay.guardTimers[b].isSome then guardExpiry b h else h

def execGuardTimerExpiry (b : BlockIx) (s : State) : Host.Outcome State Fault Refusal :=
  goOn (event (guardTimerExpiry b)) s

end Sys2Proof.Machine
end

