-- ==== Sys2Proof/Machine/Time.lean ====
section
/-! DEFINITION. The time base (R1), the full reset (R23) and the millisecond that passes when no command waits (log 2). -/

namespace Sys2Proof.Machine

/-- One millisecond of a running timer. -/
def tickTimer : Timer → Timer
  | some ms => some (ms - 1)
  | none => none

def tickPort (u : PortUnit) : PortUnit := { u with gapTimer := tickTimer u.gapTimer }

def tickBus (b : BusRecord) : BusRecord := { b with lease := tickTimer b.lease, hold := tickTimer b.hold }

/-- One millisecond of every running timer; an expiry is an event of its own (log 2, log 3). -/
def tick (h : Hw) : Hw :=
  { h with
    ports := ⟨tickPort h.ports.sup, tickPort h.ports.trk, tickPort h.ports.tst⟩
    trunk := { h.trunk with silence := tickTimer h.trunk.silence, doneTimer := tickTimer h.trunk.doneTimer }
    relay := { h.relay with
      slots := h.relay.slots.map fun s => s.map fun m => { m with remaining := m.remaining - 1 }
      guardTimers := h.relay.guardTimers.map tickTimer }
    testBus := { h.testBus with bus := ⟨tickBus h.testBus.bus.bus0, tickBus h.testBus.bus.bus1⟩ }
    meas := { h.meas with
      stageTimer := tickTimer h.meas.stageTimer
      tones := ⟨tickTimer h.meas.tones.bus0, tickTimer h.meas.tones.bus1⟩ }
    sense := h.sense.map fun x => { x with timer := x.timer - 1 }
    power := { h.power with
      graceTimer := tickTimer h.power.graceTimer
      restoreTimer := tickTimer h.power.restoreTimer
      stepTimer := tickTimer h.power.stepTimer }
    integ := { h.integ with scrubTimer := tickTimer h.integ.scrubTimer } }

/-- A second passes (R1). -/
def execSecondsTick (s : State) : Host.Outcome State Fault Refusal :=
  goOn (fun h => { h with seconds := h.seconds + 1 }) s

/-- The drive settings after a full reset: pairs 0 to 3 are driven by their homing moves, the others as they were
(R86, R100, log 25). -/
def resetDrives (u : Relay) : Relay :=
  { Relay.homed with
    pairs := Vector.ofFn fun n : PairIx =>
      { Relay.homed.pairs[n] with
        drive := if n.val < 4 then Relay.homed.pairs[n].drive else u.pairs[n].drive } }

/-- A full reset (R23): every block at its full-reset values, homing started; payload slots, which no rule resets, stand
(log 25). -/
def fullReset (h : Hw) : Hw :=
  { Hw.reset with
    store := { Store.reset with payload := h.store.payload, fresh := h.store.fresh }
    relay := resetDrives h.relay }

def execFullReset (s : State) : Host.Outcome State Fault Refusal := goOn fullReset s

end Sys2Proof.Machine
end

