-- ==== Sys2Proof/Machine/TrunkCommands.lean ====
section
/-! DEFINITION. The trunk interface's commands, SET TRUNK and READ TRUNK (R82, R83), and its events (R73 to R81). -/

namespace Sys2Proof.Machine

/-- READ TRUNK's items (R83). -/
def trunkBytes (h : Hw) : List Byte :=
  let t := h.trunk
  [encodeDelineation t.delineation, byte t.confirmCount, byte t.badRun, flagByte t.transmitEnable,
   encodeLevel h.sense[10].accepted, flagByte t.permitted]
  ++ bytesCell h.store.holds.trunkTx ++ bytesCell h.store.holds.trunkRx ++ bytes2 t.headerErrors.toNat
  ++ [t.lockLosses, t.doneTimeouts]

def readTrunkBody : Body := fun h => (h, fun h => ⟨.ok, trunkBytes h⟩)

def execReadTrunk (p : Port) (args : List Byte) (s : State) : Host.Outcome State Fault Refusal :=
  taking .readTrunk p args readTrunkBody s

/-- A resync (R82, step 2): as at the expiry of the silence timer; in SEARCH it empties the window and nothing more. -/
def resync (h : Hw) : Hw :=
  if h.trunk.delineation = .search then setTrunk { h.trunk with window := [] } h else giveUpAlignment h

/-- SET TRUNK is applied, in the order of R82. -/
def applySetTrunk (enable : Bool) (sync clear tready : Bool) (h : Hw) : Hw :=
  let h := setTrunk { h.trunk with transmitEnable := enable } h
  let h := if sync then resync h else h
  let h := if clear then setTrunk { h.trunk with headerErrors := 0, lockLosses := 0, doneTimeouts := 0 } h else h
  evalPermission tready h

/-- SET TRUNK (R82). -/
def setTrunkBody (args : List Byte) (tready : Bool) : Body :=
  unlessFault <|
    if optionalOk decodeBool (arg args 0) && optionalOk decodeBool (arg args 1) && optionalOk decodeBool (arg args 2) then
      fun h =>
        (applySetTrunk (optionalOr decodeBool h.trunk.transmitEnable (arg args 0))
          (optionalOr decodeBool false (arg args 1)) (optionalOr decodeBool false (arg args 2)) tready h,
         fun h => ⟨.ok, [flagByte h.trunk.transmitEnable, encodeDelineation h.trunk.delineation,
                         flagByte h.trunk.permitted]⟩)
    else answerOnly .range

def execSetTrunk (p : Port) (args : List Byte) (tready : Bool) (s : State) : Host.Outcome State Fault Refusal :=
  taking .setTrunk p args (setTrunkBody args tready) s

/-! ### Events -/

/-- A byte arrival on RXD (R72 to R78). -/
def execByteArrival (b : Byte) (tready : Bool) (s : State) : Host.Outcome State Fault Refusal :=
  goOn (event (receiveByte b tready)) s

/-- The expiry of the silence timer (R78). The row is the expiry itself: an expiry that a byte taken first prevents, by
restarting the timer, has no row (log 3). -/
def silenceExpiry (h : Hw) : Hw := if h.trunk.silence.isSome then giveUpAlignment h else h

def execSilenceTimerExpiry (s : State) : Host.Outcome State Fault Refusal := goOn (event silenceExpiry) s

/-- A rise of TREADY (R80). -/
def execTreadyRise (s : State) : Host.Outcome State Fault Refusal := goOn (event ready) s

/-- A TDONE pulse (R81): ignored when the trunk transmit hold is empty. -/
def transmitDone (h : Hw) : Hw := if h.store.holds.trunkTx.isSome then endSending h else h

def execTransmitDone (s : State) : Host.Outcome State Fault Refusal := goOn (event transmitDone) s

/-- The expiry of the done timer (R81). -/
def doneExpiry (h : Hw) : Hw :=
  if h.trunk.doneTimer.isSome then
    let h := endSending h
    post .doneTimeout (setTrunk
      { h.trunk with doneTimeouts := if h.trunk.doneTimeouts = 255 then 255 else h.trunk.doneTimeouts + 1 } h)
  else h

def execDoneTimerExpiry (s : State) : Host.Outcome State Fault Refusal := goOn (event doneExpiry) s

end Sys2Proof.Machine
end

