-- ==== Sys2Proof/Machine/Dispatch.lean ====
section
/-! DEFINITION. The meaning of each command, one arm for each constructor of Instr. -/

namespace Sys2Proof.Machine

/-- What a command does to the machine, but for the queue of waiting commands. -/
def exec (i : Instr) (s : State) : Host.Outcome State Fault Refusal :=
  match i with
  | .fullReset => Sys2Proof.Machine.execFullReset s
  | .secondsTick => Sys2Proof.Machine.execSecondsTick s
  | .frameByteWrite p b => Sys2Proof.Machine.execFrameByteWrite p b s
  | .gapTimerExpiry p => Sys2Proof.Machine.execGapTimerExpiry p s
  | .answerByteRead p => Sys2Proof.Machine.execAnswerByteRead p s
  | .statusRead p => Sys2Proof.Machine.execStatusRead p s
  | .frameAbort p => Sys2Proof.Machine.execFrameAbort p s
  | .portClear p => Sys2Proof.Machine.execPortClear p s
  | .takeEvent p => Sys2Proof.Machine.execTakeEvent p s
  | .clearEvent p b => Sys2Proof.Machine.execClearEvent p b s
  | .noticeRead p => Sys2Proof.Machine.execNoticeRead p s
  | .registerWriteIgnored p w => Sys2Proof.Machine.execRegisterWriteIgnored p w s
  | .readPair p args => Sys2Proof.Machine.execReadPair p args s
  | .nextNotice p args => Sys2Proof.Machine.execNextNotice p args s
  | .provision p args => Sys2Proof.Machine.execProvision p args s
  | .setTier p args => Sys2Proof.Machine.execSetTier p args s
  | .rebuildPair p args => Sys2Proof.Machine.execRebuildPair p args s
  | .readQueue p args => Sys2Proof.Machine.execReadQueue p args s
  | .setQueueLimits p args => Sys2Proof.Machine.execSetQueueLimits p args s
  | .flushQueue p args => Sys2Proof.Machine.execFlushQueue p args s
  | .readPool p args => Sys2Proof.Machine.execReadPool p args s
  | .readTrunk p args => Sys2Proof.Machine.execReadTrunk p args s
  | .setTrunk p args tready => Sys2Proof.Machine.execSetTrunk p args tready s
  | .isolate p args => Sys2Proof.Machine.execIsolate p args s
  | .unisolate p args => Sys2Proof.Machine.execUnisolate p args s
  | .setRelayTiming p args => Sys2Proof.Machine.execSetRelayTiming p args s
  | .readRelays p args => Sys2Proof.Machine.execReadRelays p args s
  | .claimBus p args => Sys2Proof.Machine.execClaimBus p args s
  | .releaseBus p args => Sys2Proof.Machine.execReleaseBus p args s
  | .selectPair p args => Sys2Proof.Machine.execSelectPair p args s
  | .deselect p args => Sys2Proof.Machine.execDeselect p args s
  | .forceRelease p args => Sys2Proof.Machine.execForceRelease p args s
  | .setBusTiming p args => Sys2Proof.Machine.execSetBusTiming p args s
  | .readBus p args => Sys2Proof.Machine.execReadBus p args s
  | .measure p args => Sys2Proof.Machine.execMeasure p args s
  | .verify p args => Sys2Proof.Machine.execVerify p args s
  | .tone p args => Sys2Proof.Machine.execTone p args s
  | .stop p args => Sys2Proof.Machine.execStop p args s
  | .readResult p args => Sys2Proof.Machine.execReadResult p args s
  | .readProfile p args => Sys2Proof.Machine.execReadProfile p args s
  | .overlayOpen p args => Sys2Proof.Machine.execOverlayOpen p args s
  | .overlayWrite p args => Sys2Proof.Machine.execOverlayWrite p args s
  | .overlayArm p args => Sys2Proof.Machine.execOverlayArm p args s
  | .overlayRetire p args => Sys2Proof.Machine.execOverlayRetire p args s
  | .overlayClose p args => Sys2Proof.Machine.execOverlayClose p args s
  | .setSense p args => Sys2Proof.Machine.execSetSense p args s
  | .readSense p args => Sys2Proof.Machine.execReadSense p args s
  | .setPowerPolicy p args => Sys2Proof.Machine.execSetPowerPolicy p args s
  | .readPower p args => Sys2Proof.Machine.execReadPower p args s
  | .readIntegrity p args => Sys2Proof.Machine.execReadIntegrity p args s
  | .ackFault p args => Sys2Proof.Machine.execAckFault p args s
  | .tableRead p args => Sys2Proof.Machine.execTableRead p args s
  | .setScrub p args => Sys2Proof.Machine.execSetScrub p args s
  | .resetPart p args => Sys2Proof.Machine.execResetPart p args s
  | .clearCorrections p args => Sys2Proof.Machine.execClearCorrections p args s
  | .setEvents p args => Sys2Proof.Machine.execSetEvents p args s
  | .setMask p args => Sys2Proof.Machine.execSetMask p args s
  | .byteArrival b tready => Sys2Proof.Machine.execByteArrival b tready s
  | .silenceTimerExpiry => Sys2Proof.Machine.execSilenceTimerExpiry s
  | .treadyRise => Sys2Proof.Machine.execTreadyRise s
  | .transmitDone => Sys2Proof.Machine.execTransmitDone s
  | .doneTimerExpiry => Sys2Proof.Machine.execDoneTimerExpiry s
  | .pollTimerExpiry card => Sys2Proof.Machine.execPollTimerExpiry card s
  | .settleTimerExpiry slot => Sys2Proof.Machine.execSettleTimerExpiry slot s
  | .guardTimerExpiry block => Sys2Proof.Machine.execGuardTimerExpiry block s
  | .leaseExpiry k => Sys2Proof.Machine.execLeaseExpiry k s
  | .holdExpiry k => Sys2Proof.Machine.execHoldExpiry k s
  | .stageTimerExpiry r => Sys2Proof.Machine.execStageTimerExpiry r s
  | .toneExpiry k => Sys2Proof.Machine.execToneExpiry k s
  | .sampleTimerExpiry x pin tready => Sys2Proof.Machine.execSampleTimerExpiry x pin tready s
  | .graceTimerExpiry => Sys2Proof.Machine.execGraceTimerExpiry s
  | .restoreTimerExpiry => Sys2Proof.Machine.execRestoreTimerExpiry s
  | .stepTimerExpiry => Sys2Proof.Machine.execStepTimerExpiry s
  | .scrubTimerExpiry => Sys2Proof.Machine.execScrubTimerExpiry s

end Sys2Proof.Machine
end

