-- ==== Sys2Proof/Safety.lean ====
section
/-! DEFINITION. The invariants that every step is to keep, and the frame of what one event causes in other blocks. -/

namespace Sys2Proof.Machine

/-- Owner and link words are in canonical form. -/
def Store.tablesWf (s : Store) : Prop :=
  Sparse.wf ownerDefault s.owners = true ∧ Sparse.wf linkDefault s.links = true

/-- Memory of the block: the payload slots are in canonical form (Host.Cell). -/
def Memory.wf (m : List Host.Cell) : Bool := Sparse.wf payloadDefault m

/-- The three sparse tables of the cell store are in canonical form. -/
def Store.wf (s : Store) : Prop := s.tablesWf ∧ Memory.wf s.payload = true

/-- Group 0 is ON at level 0 at a port (R187). -/
def EventPort.groupZero (e : EventPort) : Prop := e.enable[(0 : Fin 8)] = true ∧ e.level[(0 : Fin 8)] = 0

/-- Group 0 is ON at level 0 at every port (R187). -/
def Hw.groupZero (h : Hw) : Prop := ∀ p : Port, (h.events.get p).groupZero

/-- The settings of the blocks stay within the ranges of R98, R102, R152 and R167, and the scrub cursor within the table
RAM (R167). -/
def Hw.inRange (h : Hw) : Prop :=
  (2 ≤ h.relay.settleTime ∧ h.relay.settleTime ≤ 30) ∧ h.relay.guardTime ≤ 255
  ∧ (10 ≤ h.testBus.leaseSetting ∧ h.testBus.leaseSetting ≤ 255) ∧ h.testBus.holdSetting ≤ 60
  ∧ (1 ≤ h.testBus.activityWindow ∧ h.testBus.activityWindow ≤ 60)
  ∧ h.power.graceTime ≤ 255 ∧ h.power.restoreDelay ≤ 255 ∧ (1 ≤ h.power.stepInterval ∧ h.power.stepInterval ≤ 60)
  ∧ h.integ.scrubInterval ≤ 255 ∧ h.integ.cursor < tableWords

/-- Each notice queue holds each pair at most once (R16). -/
def Hw.noticesOnce (h : Hw) : Prop := ∀ p : Port, (h.pairTable.notices.get p).Nodup

/-- The line bus controller and the share scheduler hold the same eligible set (R11). -/
def Hw.eligibleAgree (h : Hw) : Prop := h.line.eligible = h.sched.eligible

/-- The line bus controller's eligible set holds each pair exactly while it is exchange-eligible (R11, R65). -/
def Hw.exchangeShown (h : Hw) : Prop := ∀ n : PairIx, h.line.eligible[n] = exchangeEligible h n

/-- A bus has a pair in SELECTING, READY and BUSY alone (R102). -/
def Hw.pairsAtWork (h : Hw) : Prop :=
  ∀ k : BusId, (busRecord h k).pair.isSome = true →
    (busRecord h k).state = .selecting ∨ (busRecord h k).state = .ready ∨ (busRecord h k).state = .busy

/-- A pair that is not queue-eligible has both of its queues empty (R10). -/
def Hw.shedEmpty (h : Hw) : Prop :=
  ∀ n : PairIx, queueEligible h n = false →
    h.store.descriptors[upq n].fields.count = 0 ∧ h.store.descriptors[dnq n].fields.count = 0

/-- A wait list holds each port once, and never the holder; no port waits for a bus that has no holder (R102 to R104). -/
def BusRecord.orderly (b : BusRecord) : Prop :=
  b.wait.Nodup ∧ (∀ p ∈ b.wait, b.holder ≠ some p) ∧ (b.holder = none → b.wait = [])

/-- A port holds the bus or waits for it. -/
def BusRecord.concerns (b : BusRecord) (p : Port) : Prop := b.holder = some p ∨ p ∈ b.wait

/-- From one record to another no port comes to hold or wait for the bus, and no pair comes onto it. -/
def BusRecord.Within (b a : BusRecord) : Prop :=
  (∀ p, b.concerns p → a.concerns p) ∧ ∀ n, b.pair = some n → a.pair = some n

/-- A bus's state agrees with its fields (R102): a pair exactly in SELECTING, READY and BUSY, a departing pair exactly in
DESELECTING, no holder in FREE, and in DESELECTING perhaps none; the lease runs in HELD and READY alone (R106), the hold in
READY alone (R107). -/
def BusRecord.coherent (b : BusRecord) : Prop :=
  (b.pair.isSome = true ↔ b.state = .selecting ∨ b.state = .ready ∨ b.state = .busy)
  ∧ (b.departing.isSome = true ↔ b.state = .deselecting)
  ∧ (b.state = .free → b.holder = none) ∧ (b.holder = none → b.state = .free ∨ b.state = .deselecting)
  ∧ (b.lease.isSome = true → b.state = .held ∨ b.state = .ready) ∧ (b.hold.isSome = true → b.state = .ready)

/-- Both buses are coherent, each is BUSY exactly while a command of it stands in the FIFO or in its tone (R111, R119), and
no pair is on both (R102). -/
def Hw.busesCoherent (h : Hw) : Prop :=
  (∀ k : BusId, (busRecord h k).coherent
    ∧ ((busRecord h k).state = .busy ↔ fifoPlace h k ≠ 0 ∨ (h.meas.tones.get k).isSome = true))
  ∧ ∀ n : PairIx, (busRecord h .bus0).pair = some n → (busRecord h .bus1).pair ≠ some n

/-- Both wait lists are orderly. -/
def Hw.orderly (h : Hw) : Prop := ∀ k : BusId, (busRecord h k).orderly

/-- Power and line power of a pair follow its tier and service (R4, R7): the power unit holds them while the record is
poisoned, and at any other time its copies are the pair table's, a pair is POWERED while its tier is below the floor,
and its line power is on while it is POWERED and its service is not DISABLED. -/
def Hw.pairPowerSound (h : Hw) (n : PairIx) : Prop :=
  let x := h.power.pairs[n]
  let w := (storedPair h n).first.val
  x.frozen = isPoisoned h n
    ∧ (isPoisoned h n = false →
        x.tier = w.tier ∧ x.service = w.service ∧ x.powered = decide (w.tier.val < h.power.floor)
          ∧ x.line = (x.powered && w.service != .disabled))

/-- Power and line power of every pair follow its tier and service (R4, R7). -/
def Hw.powerSound (h : Hw) : Prop := ∀ n : PairIx, h.pairPowerSound n

/-- A pair's relay stands on a position or is bound for it (R89). -/
def RelayPair.near (x : RelayPair) (k : RelayPos) : Prop := x.pos = k ∨ x.target = k

/-- No two pairs stand on one test bus or are bound for it (R89); the target of a pair at rest is its position (R85); and
the pairs that move are those of the moves in flight, each with its own move and its move's target (R86). -/
def Relay.sound (u : Relay) : Prop :=
  (∀ (k : BusId) (n m : PairIx), u.pairs[n].near (busPos k) → u.pairs[m].near (busPos k) → n = m)
  ∧ (∀ n : PairIx, u.pairs[n].moving = false → u.pairs[n].target = u.pairs[n].pos)
  ∧ (∀ n : PairIx, u.pairs[n].moving = true → ∃ (i : SlotIx) (m : Move), u.slots[i] = some m ∧ m.pair = n)
  ∧ (∀ (i : SlotIx) (m : Move), u.slots[i] = some m →
      u.pairs[m.pair].moving = true ∧ u.pairs[m.pair].target = m.target)
  ∧ (∀ (i j : SlotIx) (m o : Move), u.slots[i] = some m → u.slots[j] = some o → m.pair = o.pair → i = j)

/-- A port unit's state and its buffers agree (R180 to R182): an answer stands in ANSWER alone, a command that has been
passed in WORKING alone, the gap timer
runs in COLLECTING alone, and the abort mark stands in WORKING alone. -/
def PortUnit.coherent (u : PortUnit) : Prop :=
  (u.state = .answer ↔ u.answer.isSome = true) ∧ (u.state = .working ↔ u.passed.isSome = true)
    ∧ (u.state = .collecting ↔ u.gapTimer.isSome = true) ∧ (u.abortMark = true → u.state = .working)

/-- Every port unit is coherent. -/
def Hw.portsCoherent (h : Hw) : Prop := ∀ p : Port, (portOf h p).coherent

/-! ### What consequent work leaves alone -/

/-- What a port has configured of its events (R187): neither is changed by a posting. -/
structure EventConfig where
  enable : Vector Bool 8
  level : Vector (Fin 8) 8
  mask : Fin 9
  deriving DecidableEq, Repr

def EventPort.config (e : EventPort) : EventConfig := ⟨e.enable, e.level, e.mask⟩

/-- What PROVISION, SET TIER and REBUILD PAIR set of a pair (R4, R5). -/
structure Provisioned where
  service : Service
  tier : Fin 4
  weight : Fin 16
  deriving DecidableEq, Repr

def Hw.provisioned (h : Hw) (n : PairIx) : Provisioned :=
  let w := (storedPair h n).first.val
  ⟨w.service, w.tier, w.weight⟩

/-- What the OVERLAY commands set of a channel (R125), its words as last written. -/
structure ChannelContents where
  state : ChannelState
  target : Option (Fin 16)
  low : ProfileLow
  high : ProfileHigh
  deriving DecidableEq, Repr

def Channel.contents (x : Channel) : ChannelContents := ⟨x.state, x.target.val, x.low.val, x.high.val⟩

/-- The settings of the blocks, and what the sense unit has reported to them. -/
structure Settings where
  settleTime : Nat
  guardTime : Nat
  guardTimers : Vector Timer 4
  surgeLevels : Vector Level 4
  leaseSetting : Nat
  holdSetting : Nat
  activityWindow : Nat
  graceTime : Nat
  restoreDelay : Nat
  stepInterval : Nat
  mainsLevel : Level
  lowLevel : Level
  criticalLevel : Level
  thermalLevel : Level
  transmitEnable : Bool
  scrubInterval : Nat
  scrubTimer : Timer
  cursor : Nat
  passCount : Half
  deriving DecidableEq, Repr

def Hw.settings (h : Hw) : Settings where
  settleTime := h.relay.settleTime
  guardTime := h.relay.guardTime
  guardTimers := h.relay.guardTimers
  surgeLevels := h.relay.surgeLevels
  leaseSetting := h.testBus.leaseSetting
  holdSetting := h.testBus.holdSetting
  activityWindow := h.testBus.activityWindow
  graceTime := h.power.graceTime
  restoreDelay := h.power.restoreDelay
  stepInterval := h.power.stepInterval
  mainsLevel := h.power.mainsLevel
  lowLevel := h.power.lowLevel
  criticalLevel := h.power.criticalLevel
  thermalLevel := h.power.thermalLevel
  transmitEnable := h.trunk.transmitEnable
  scrubInterval := h.integ.scrubInterval
  scrubTimer := h.integ.scrubTimer
  cursor := h.integ.cursor
  passCount := h.integ.passCount

/-- What the line bus controller alone sets (R60, R67). -/
structure LineKept where
  pollPtr : PairIx
  activity : Vector (Option Seconds) 24
  slot : Option PairIx
  delivered : Option Delivery
  deriving DecidableEq, Repr

def LineBus.kept (l : LineBus) : LineKept := ⟨l.pollPtr, l.activity, l.slot, l.delivered⟩

/-- No bit of the three words of a pair's stored part has been upset since it was written (R3, R167). -/
def Hw.undamaged (h : Hw) (n : PairIx) : Prop :=
  (storedPair h n).first.upset = .none ∧ (storedPair h n).second.upset = .none ∧ (storedPair h n).third.upset = .none

/-- From one state of the integrity unit to another, a pending record, its gate, and FAULT HOLD with its cause stand. -/
def Integrity.ErrorsStand (b a : Integrity) : Prop :=
  (a.faultHold = true → b.faultHold = true ∧ b.holdCause = a.holdCause)
  ∧ ∀ e, a.pending = some e → b.pending = some e ∧ b.gate = a.gate

/-- A pending flag of a port (R187). -/
def Hw.flag (h : Hw) (p : Port) (g : Fin 8) (i : Nat) : Bool := ((h.events.get p).pending[g]).getLsbD i

/-- What stands in the three words of a pair's stored part, upset bits apart (R3). -/
def StoredPair.vals (x : StoredPair) : ServiceWord × SummaryWord × Seconds := (x.first.val, x.second.val, x.third.val)

/-- The last-test summary in a stored part (R6). -/
def StoredPair.lastTest (x : StoredPair) : SummaryWord × Seconds := (x.second.val, x.third.val)

/-- The stored part of a pair's record after k changes of the record that write no field of it (R13, R14): the version has
advanced by k, its word is written with fresh check bits, and the other two words stand; a poisoned record's stored part
stands whole. -/
def Hw.recordAfter (h : Hw) (n : PairIx) (k : Nat) : StoredPair :=
  let x := storedPair h n
  if isPoisoned h n = true ∨ k = 0 then x
  else { x with first := ⟨{ x.first.val with version := x.first.val.version + BitVec.ofNat 16 k }, .none⟩ }

/-- From one state to another the records of these pairs have changed once, and the record of each pair whose move has
started in between once more (R14, R86); nothing else of a stored part has changed. -/
def Hw.recordsStepped (a b : Hw) (changed : PairIx → Bool) : Prop :=
  ∀ n : PairIx, storedPair b n = a.recordAfter n
    ((if changed n then 1 else 0) + if b.relay.pairs[n].moving = a.relay.pairs[n].moving then 0 else 1)

/-- The relay queue from its front (R87). -/
def Relay.entries (u : Relay) : List Entry := u.guardSection ++ u.normalSection

/-- The relay queue holds at most one entry for each pair, GUARD entries in the guard section and NORMAL entries in the
normal section (R87). -/
def Relay.queueGood (u : Relay) : Prop :=
  (u.entries.map Entry.pair).Nodup ∧ (∀ e ∈ u.guardSection, e.target = .isolated)
    ∧ ∀ e ∈ u.normalSection, e.target ≠ .isolated

/-- A pair has an entry in the relay queue. -/
def Relay.waits (u : Relay) (n : PairIx) : Prop := ∃ e ∈ u.entries, e.pair = n

/-- A pair's relay stands on bus k or is bound for it, or an entry would send it there (R89, R101). -/
def Relay.boundFor (u : Relay) (n : PairIx) (k : BusId) : Prop :=
  u.pairs[n].near (busPos k) ∨ ∃ e ∈ u.entries, e.pair = n ∧ e.target = busPos k

/-- A move request of a pair waits in the relay queue, or its move runs, or the pair stands at the target (R88, R89). -/
def Relay.asked (u : Relay) (n : PairIx) (target : RelayPos) (q : Requester) : Prop :=
  ⟨n, target, q⟩ ∈ u.entries ∨ (u.pairs[n].moving = true ∧ u.pairs[n].target = target)
    ∨ (u.pairs[n].moving = false ∧ u.pairs[n].pos = target)

/-- From one state of the relay unit to another, requests for THROUGH and ISOLATED alone have been taken, and entries have
been started (R88, R89): no position and no guard has changed; a move in flight runs on in its slot; an entry for a bus, or
for UNKNOWN, has not been made; no pair is bound for a bus that was not; and a pair that waited to leave a bus, or its
UNKNOWN position, waits still or moves. -/
structure Relay.Onward (a b : Relay) : Prop where
  stands : ∀ n : PairIx, b.pairs[n].pos = a.pairs[n].pos ∧ b.pairs[n].guard = a.pairs[n].guard
  moves : ∀ n : PairIx, a.pairs[n].moving = true → b.pairs[n].moving = true ∧ b.pairs[n].target = a.pairs[n].target
  slots : ∀ (i : SlotIx) (m : Move), a.slots[i] = some m → b.slots[i] = some m
  entries : ∀ e ∈ b.entries, e ∈ a.entries ∨ e.target = .through ∨ e.target = .isolated
  bound : ∀ (n : PairIx) (k : BusId), b.boundFor n k → a.boundFor n k
  waits : ∀ n : PairIx, a.waits n → a.pairs[n].pos ≠ .through → a.pairs[n].pos ≠ .isolated →
    (∀ e ∈ a.entries, e.pair = n → e.target ≠ a.pairs[n].pos) → b.waits n ∨ b.pairs[n].moving = true
  queue : a.queueGood → b.queueGood
  sound : a.sound → b.sound

/-- The frame of the work that one block's change causes in the others (version steps, notices, flushes, breaks, poison,
FAULT HOLD, return and guard moves, aborts, transmit opportunities): from the first state to the second, none of what the
fields name has changed but as they say. -/
structure Follows (a b : Hw) : Prop where
  seconds : b.seconds = a.seconds
  ports : b.ports = a.ports
  sense : b.sense = a.sense
  settings : b.settings = a.settings
  line : b.line.kept = a.line.kept
  payload : b.store.payload = a.store.payload
  config : ∀ p, (b.events.get p).config = (a.events.get p).config
  /-- Service, tier and weight of every pair (R4, R5). -/
  provisioned : ∀ n, b.provisioned n = a.provisioned n
  /-- Nothing of a record's stored part changes, its version least of all, but with a notice at every port (R14, R16). -/
  records : ∀ n, (storedPair b n).vals = (storedPair a n).vals ∨ ∀ p, n ∈ b.pairTable.notices.get p
  /-- The stored part of a poisoned record stands (R13). -/
  frozen : ∀ n, isPoisoned a n = true → (storedPair b n).vals = (storedPair a n).vals
  /-- A last-test summary stands, or is one of this event (R6). -/
  tested : ∀ n, (storedPair b n).lastTest = (storedPair a n).lastTest ∨ (storedPair b n).third.val = a.seconds
  channels : ∀ c, (channelOf b c).contents = (channelOf a c).contents
    ∧ ((channelOf a c).poisoned = true → (channelOf b c).poisoned = true)
  /-- A flag, a notice, poison, FAULT HOLD and a pending record are only gained (R12, R16, R170, R174, R187). -/
  flags : ∀ p g i, a.flag p g i = true → b.flag p g i = true
  notices : ∀ p n, n ∈ a.pairTable.notices.get p → n ∈ b.pairTable.notices.get p
  poisoned : ∀ n, isPoisoned a n = true → isPoisoned b n = true
  errors : b.integ.ErrorsStand a.integ
  /-- An undamaged record stays so, and is not poisoned (R12). -/
  undamaged : ∀ n, a.undamaged n → b.undamaged n ∧ (isPoisoned b n = true → isPoisoned a n = true)
  /-- No port comes to hold or wait for a bus, and no pair onto one (R102, R103, R108). -/
  buses : ∀ k, (busRecord b k).Within (busRecord a k)
  relay : a.relay.Onward b.relay
  tables : a.store.tablesWf → b.store.tablesWf
  once : a.noticesOnce → b.noticesOnce
  eligible : a.eligibleAgree → b.eligibleAgree
  orderly : a.orderly → b.orderly
  power : a.powerSound → b.powerSound

end Sys2Proof.Machine
end

