-- ==== Sys2Proof/Certificates/Slice0/Obligations.lean ====
section
/-! DEFINITION. The statements for the provers, with the words they share. -/

namespace Sys2Proof.Machine

/-! ### The words of the statements -/

/-- Port p has passed command c with these argument bytes and its owner has not taken it yet (R182); no request waits
inside the part, as it is between events (log 12). -/
def Waits (s : State) (p : Port) (c : Cmd) (args : List Byte) : Prop :=
  (portOf s.hw p).passed = some ⟨c, args⟩ ∧ s.hw.requests = []

/-- The machine with part h, port p having received the answer of command c. -/
def answered (s : State) (p : Port) (c : Cmd) (code : AnswerCode) (data : List Byte) (h : Hw) : State :=
  { s with hw := deliver p c ⟨code, data⟩ h }

/-- The machine with part h. -/
def withHw (s : State) (h : Hw) : State := { s with hw := h }

/-- The machine with another state of one port's unit. -/
def withPort (s : State) (p : Port) (u : PortUnit) : State := { s with hw := setPort p u s.hw }

/-- A port stands in ANSWER with an answer frame of three bytes: code echo, answer code, no data. -/
def PortUnit.repliesPlain (u : PortUnit) (echo code : Byte) : Prop :=
  u.state = .answer ∧ u.answer = some ⟨[echo, code, 0], 0⟩ ∧ u.gapTimer = none ∧ u.passed = none

/-- The commands that every port may issue (R185's first two rows). -/
def openCmds : List Cmd :=
  [.readPair, .readQueue, .readPool, .readTrunk, .readRelays, .readBus, .readResult, .readProfile, .readSense, .readPower,
   .readIntegrity, .nextNotice, .claimBus, .releaseBus, .selectPair, .deselect, .measure, .verify, .tone, .stop,
   .setEvents, .setMask]

/-- The commands that TRK alone may issue (R185's third row). -/
def trkCmds : List Cmd := [.provision, .setQueueLimits, .flushQueue, .setTrunk]

/-- The commands that SUP alone may issue (R185's fourth row). -/
def supCmds : List Cmd :=
  [.setTier, .rebuildPair, .isolate, .unisolate, .setRelayTiming, .forceRelease, .setBusTiming, .overlayOpen,
   .overlayWrite, .overlayArm, .overlayRetire, .overlayClose, .setSense, .setPowerPolicy, .ackFault, .tableRead,
   .setScrub, .resetPart, .clearCorrections]

/-- Whether R185's table marks a port for a command. -/
def marked (p : Port) (c : Cmd) : Prop := c ∈ openCmds ∨ (p = .trk ∧ c ∈ trkCmds) ∨ (p = .sup ∧ c ∈ supCmds)

/-- What a port unit has made of a complete frame (R182): UNKNOWN for a code in no row of the command code table, DENIED
for a port that the table of R185 does not mark, else the command is passed and the port is WORKING. -/
def PortUnit.tookFrame (u : PortUnit) (p : Port) (code : Byte) (args : List Byte) : Prop :=
  ((∀ c, cmdCode c ≠ code) → u.repliesPlain code 0x10)
  ∧ ∀ c, cmdCode c = code →
      (¬ marked p c → u.repliesPlain code 0x03)
      ∧ (marked p c → u.state = .working ∧ u.passed = some ⟨c, args⟩ ∧ u.gapTimer = none ∧ u.answer = none)

/-- What the spec's reset tables give the part after a full reset (R1, R23, R48, R59, R66, R84, R91, R100, R117, R141,
R151, R166, R179, R192), homing started. -/
def afterFullReset (h : Hw) : Prop :=
  h.seconds = 0
  ∧ (∀ p, (portOf h p).state = .idle ∧ (portOf h p).frame = ⟨none, none, []⟩ ∧ (portOf h p).answer = none
      ∧ (portOf h p).abortMark = false ∧ (portOf h p).overrun = false ∧ (portOf h p).gap = false
      ∧ (portOf h p).gapTimer = none ∧ (portOf h p).takeLatch = none ∧ (portOf h p).clearLatch = none)
  ∧ (∀ p, (eventsOf h p).mask = 8 ∧ (eventsOf h p).int = false
      ∧ ∀ g : Fin 8, (eventsOf h p).enable[g] = (g == 0) ∧ (eventsOf h p).level[g] = g ∧ (eventsOf h p).pending[g] = 0)
  ∧ (∀ n : PairIx, storedPair h n
        = ⟨.fresh ⟨.disabled, 3, 1, if n.val < 4 then 1 else 0⟩, .fresh ⟨.none, none⟩, .fresh 0⟩
      ∧ isPoisoned h n = false ∧ queueEligible h n = false)
  ∧ (∀ p, h.pairTable.notices.get p = [0, 1, 2, 3])
  ∧ (∀ q : QueueIx, h.store.descriptors[q] = .fresh ⟨none, none, 0, 64, 48, 0, none⟩
      ∧ h.store.generations[q] = .fresh 0 ∧ h.store.congested[q] = false)
  ∧ (∀ c : CellIx, h.store.owner c = .fresh (.free 0)
      ∧ (h.store.link c).val.next = (if g : c.val < 2047 then .cell ⟨c.val + 1, by omega⟩ else .fin))
  ∧ h.store.freeHead = some 0 ∧ h.store.freeCount = 2048 ∧ h.store.freeGeneration = .fresh 0
  ∧ h.store.holds = ⟨none, none, none, none⟩ ∧ h.store.retired = [] ∧ h.store.poolLow = false ∧ h.store.stranded = 0
  ∧ h.store.passReclaimed = 0
  ∧ (∀ n : PairIx, h.sched.credit[n] = 0 ∧ h.sched.eligible[n] = false)
  ∧ h.sched.urgentPtr = 0 ∧ h.sched.tier0Ptr = 0 ∧ h.sched.roundPtr = 0
  ∧ h.line.pollPtr = 0 ∧ (∀ n : PairIx, h.line.eligible[n] = false ∧ h.line.activity[n] = none)
  ∧ h.trunk.delineation = .search ∧ h.trunk.window = [] ∧ h.trunk.position = 0 ∧ h.trunk.current = none
  ∧ h.trunk.confirmCount = 0 ∧ h.trunk.badRun = 0 ∧ h.trunk.silence = none ∧ h.trunk.doneTimer = none
  ∧ h.trunk.headerErrors = 0 ∧ h.trunk.lockLosses = 0 ∧ h.trunk.doneTimeouts = 0 ∧ h.trunk.transmitEnable = false
  ∧ h.trunk.permitted = false ∧ h.trunk.sending = none
  ∧ (∀ n : PairIx, h.relay.pairs[n].pos = .unknown ∧ h.relay.pairs[n].guard = .none
      ∧ h.relay.pairs[n].moving = decide (n.val < 4)
      ∧ h.relay.pairs[n].target = (if n.val < 4 then .through else .unknown))
  ∧ (∀ i : SlotIx, h.relay.slots[i] = some ⟨⟨i.val, by omega⟩, .through, .relayUnit, 30⟩)
  ∧ h.relay.guardSection = []
  ∧ h.relay.normalSection = (List.range 20).map (fun i => ⟨⟨(i + 4) % 24, by omega⟩, .through, .relayUnit⟩)
  ∧ (∀ b : BlockIx, h.relay.guardTimers[b] = none ∧ h.relay.surgeLevels[b] = .unknown)
  ∧ h.relay.settleTime = 30 ∧ h.relay.guardTime = 60
  ∧ (∀ k, busRecord h k = ⟨.free, none, [], none, none, none, none⟩)
  ∧ h.testBus.leaseSetting = 120 ∧ h.testBus.holdSetting = 10 ∧ h.testBus.activityWindow = 10
  ∧ h.meas.fifo = [] ∧ h.meas.stage = none ∧ h.meas.stageTimer = none ∧ h.meas.setup = none
  ∧ (∀ k, h.meas.tones.get k = none ∧ resultOf h k = .cleared)
  ∧ (∀ c, channelOf h c = ⟨.free, false, .fresh none, .fresh ⟨⟨false, false, false⟩, 0, 0⟩, .fresh ⟨0, 0, 0, 0⟩⟩)
  ∧ (∀ i : SenseIx, h.sense[i] = ⟨true, .ms4, .both, 4, none, none, .unknown⟩)
  ∧ h.power.mode = .start ∧ h.power.modeSince = 0 ∧ h.power.floor = 0
  ∧ h.power.mainsLevel = .unknown ∧ h.power.lowLevel = .unknown ∧ h.power.criticalLevel = .unknown
  ∧ h.power.thermalLevel = .unknown ∧ h.power.graceTimer = none ∧ h.power.restoreTimer = none
  ∧ h.power.stepTimer = none ∧ h.power.graceTime = 30 ∧ h.power.restoreDelay = 60 ∧ h.power.stepInterval = 5
  ∧ (∀ n : PairIx, h.power.pairs[n] = ⟨3, .disabled, false, false, false⟩)
  ∧ h.integ.corrections = 0 ∧ h.integ.pending = none ∧ h.integ.gate = .none ∧ h.integ.faultHold = false
  ∧ h.integ.holdCause = none ∧ h.integ.scrubInterval = 1 ∧ h.integ.scrubTimer = some 1 ∧ h.integ.cursor = 0
  ∧ h.integ.passCount = 0

/-- A saturating count raised by one (R72, R81, R168). -/
def raised (b : Byte) : Byte := if b = 255 then 255 else b + 1

/-- One CORRECTED check has been counted (R168): CORRECTIONS is posted when the count rises from 15 to 16. -/
def counted (h : Hw) : Hw :=
  let t := { h with integ := { h.integ with corrections := raised h.integ.corrections } }
  if h.integ.corrections = 15 then post .corrections t else t

/-- From one state to another the first word of a pair's stored part has been read through the check, and the read has not
poisoned the record (R3, R167 to R169): the word is GOOD; or one upset bit has been corrected, the word written back, and
the correction counted; or two make a known error, the record being poisoned already. -/
def firstWordRead (h t : Hw) (n : PairIx) : Prop :=
  let w := (storedPair h n).first
  (w.upset = .none ∧ t = h) ∨ ((∃ bit, w.upset = .single bit) ∧ t = counted (writeFirst n w.val h))
  ∨ (w.upset.outcome = .uncorrectable ∧ isPoisoned h n = true ∧ t = h)

/-- From one state to another the target word of an overlay channel has been read through the check, and could be read
(R125, R167, R168): it is GOOD; or one upset bit has been corrected, the word written back, and the correction counted. -/
def targetWordRead (h t : Hw) (c : Fin 4) : Prop :=
  let w := (channelOf h c).target
  (w.upset = .none ∧ t = h)
  ∨ ((∃ bit, w.upset = .single bit) ∧ t = counted (setChannel c { channelOf h c with target := ⟨w.val, .none⟩ } h))

/-- A chain of cells from a head on, each link word undamaged and naming the next cell, the last END (R25). -/
def Store.chain (s : Store) : Option CellIx → List CellIx → Prop
  | head, [] => head = none
  | head, c :: rest => head = some c ∧ (s.link c).upset = .none
      ∧ ∃ next : Option CellIx, (s.link c).val.next = StoreRun.nextOf next ∧ s.chain next rest

/-- A cell that can be tagged and freed: its owner word is undamaged and not RETIRED. -/
def Store.usable (s : Store) (c : CellIx) : Prop := (s.owner c).upset = .none ∧ (s.owner c).val ≠ .retired

/-- None of a descriptor's three words has been upset. -/
def Store.descriptorGood (s : Store) (q : QueueIx) : Prop :=
  s.descriptors[q].upset0 = .none ∧ s.descriptors[q].upset1 = .none ∧ s.descriptors[q].upset2 = .none

/-- Queue q holds these cells from head to tail, the first `lead` of them urgent, and no word the queue engine reads on it
is damaged (R25, R29). -/
def Store.queueIs (s : Store) (q : QueueIx) (cells : List CellIx) (lead : Nat) : Prop :=
  s.descriptorGood q ∧ s.generations[q].upset = .none ∧ cells.Nodup ∧ (∀ c ∈ cells, s.usable c) ∧ lead ≤ cells.length
  ∧ s.chain s.descriptors[q].fields.head cells
  ∧ s.descriptors[q].fields.tail = cells.getLast? ∧ s.descriptors[q].fields.count = cells.length
  ∧ s.descriptors[q].fields.leadCount = lead ∧ s.descriptors[q].fields.leadTail = (cells.take lead).getLast?

/-- No word is damaged that a flush of the two queues of a pair reads (R10, R33). -/
def Store.flushable (s : Store) (n : PairIx) : Prop :=
  s.freeGeneration.upset = .none ∧ ∃ (us ds : List CellIx) (lu ld : Nat),
    s.queueIs (upq n) us lu ∧ s.queueIs (dnq n) ds ld ∧ ∀ c ∈ us, c ∉ ds

/-- Both queues of a pair have been flushed (R10, R33): they are empty, every cell that stood on them is free, and the free
count has risen by their number; no word that this reads being damaged. -/
def Store.flushedOf (a b : Store) (n : PairIx) : Prop :=
  a.freeGeneration.upset = .none → ∀ (us ds : List CellIx) (lu ld : Nat),
    a.queueIs (upq n) us lu → a.queueIs (dnq n) ds ld → (∀ c ∈ us, c ∉ ds) →
    b.queueIs (upq n) [] 0 ∧ b.queueIs (dnq n) [] 0 ∧ b.freeCount = a.freeCount + us.length + ds.length
    ∧ ∀ c, c ∈ us ∨ c ∈ ds → b.owner c = ⟨.free a.freeGeneration.val, .none⟩

/-- Every queue is undamaged, no cell stands on two of them, and the free generation is undamaged (R25, R29, R42). -/
def Store.queuesApart (s : Store) : Prop :=
  s.freeGeneration.upset = .none ∧ ∃ cells : QueueIx → List CellIx,
    (∀ q, ∃ lead, s.queueIs q (cells q) lead) ∧ ∀ q r c, q ≠ r → c ∈ cells q → c ∉ cells r

/-- A change of pair n's service or tier has flushed its queues if it has ended the pair's queue eligibility, and has left
the cell store alone if the pair is queue-eligible after it (R10, R33). -/
def shedByChange (h t : Hw) (n : PairIx) : Prop :=
  (queueEligible h n = true → queueEligible t n = false → h.store.flushedOf t.store n)
  ∧ (queueEligible t n = true → t.store = h.store)

/-- Each pair that has lost queue eligibility, whichever others have, has both queues empty (R10, R161), and when no queue is
damaged the cells that stood on them are free (R33). -/
def shedEmptied (h t : Hw) : Prop :=
  ∀ n : PairIx, queueEligible h n = true → queueEligible t n = false →
    (h.store.flushable n → t.store.queueIs (upq n) [] 0 ∧ t.store.queueIs (dnq n) [] 0)
    ∧ (h.store.queuesApart → ∀ (q : QueueIx) (cells : List CellIx) (lead : Nat), q = upq n ∨ q = dnq n →
        h.store.queueIs q cells lead → ∀ c ∈ cells, t.store.owner c = ⟨.free h.store.freeGeneration.val, .none⟩)

/-- The changes of a pair's record that follow a change of its service or tier (R14): one when the power unit changes power
or line power, and one when a flush changes congested. -/
def consequentSteps (h t : Hw) (n : PairIx) : Nat :=
  (if t.power.pairs[n].powered = h.power.pairs[n].powered ∧ t.power.pairs[n].line = h.power.pairs[n].line then 0 else 1)
    + if t.store.congested[upq n] = h.store.congested[upq n] then 0 else 1

/-- The congested flag of pair n's upstream queue is not the same in two states. -/
def congestedChanged (h t : Hw) (n : PairIx) : Bool := t.store.congested[upq n] != h.store.congested[upq n]

/-- The stored part of a pair after the writing of a last-test summary, the stored part being undamaged: a summary that
differs from the one that stands is a change of the record (R6, R14, log 20). -/
def afterSummary (h : Hw) (n : PairIx) (v : Verdict) (profile : Option (Fin 16)) : StoredPair :=
  let x := storedPair h n
  let y : StoredPair := { x with second := ⟨⟨v, profile⟩, .none⟩, third := ⟨h.seconds, .none⟩ }
  if y = x then x else { y with first := ⟨{ x.first.val with version := x.first.val.version + 1 }, .none⟩ }

/-- A MEASURE or VERIFY of bus k that has been cut short has written the last-test summary of its pair (R6, R138), the
record being undamaged and not poisoned. -/
def summaryOfAbort (h t : Hw) (k : BusId) : Prop :=
  ∀ n, (resultOf h k).pair = some n →
    ((resultOf h k).command = some .measure ∨ (resultOf h k).command = some .verify) →
    isPoisoned h n = false → h.undamaged n →
    (storedPair t n).second = ⟨⟨.error, (resultOf h k).profile.map Prod.fst⟩, .none⟩
    ∧ (storedPair t n).third = ⟨h.seconds, .none⟩

/-- The return move of pair n has been requested, to THROUGH when its guard is NONE and to ISOLATED otherwise (R105). -/
def returned (h t : Hw) (n : PairIx) : Prop :=
  h.relay.queueGood → t.relay.asked n (if h.relay.pairs[n].guard = .none then .through else .isolated) .testBus

/-- No word of any pair's stored part is damaged. -/
def Hw.pairsGood (h : Hw) : Prop := ∀ n, h.undamaged n

/-- Bus k's record after the deselection of its pair n, its holder and wait list being given (R105): it waits in
DESELECTING when the pair's relay is on the bus or bound for it; else it is HELD, or FREE without a holder. -/
def afterDeselect (h : Hw) (k : BusId) (n : PairIx) (holder : Option Port) (wait : List Port) : BusRecord :=
  if onOrBound h k n then ⟨.deselecting, holder, wait, none, some n, none, none⟩
  else if holder.isSome then
    ⟨.held, holder, wait, none, (busRecord h k).departing, some (h.testBus.leaseSetting * 1000), none⟩
  else ⟨.free, holder, wait, none, (busRecord h k).departing, none, none⟩

/-- Bus k's record after a release (R104): the oldest waiter holds it; a pair is deselected; a bus that is DESELECTING
stays so. -/
def afterRelease (h : Hw) (k : BusId) : BusRecord :=
  let b := busRecord h k
  match b.pair with
  | some n => afterDeselect h k n b.wait.head? b.wait.tail
  | none =>
    if b.state = .deselecting then ⟨.deselecting, b.wait.head?, b.wait.tail, none, b.departing, none, none⟩
    else if b.wait = [] then ⟨.free, none, [], none, b.departing, none, none⟩
    else ⟨.held, b.wait.head?, b.wait.tail, none, b.departing, some (h.testBus.leaseSetting * 1000), none⟩

/-- The request at the front of a FIFO is in its FOREIGN stage; with none the stage is IDLE and the idle setup is sent
(R119). -/
def frontStarts (m : Measurement) (rest : List TestRequest) : Prop :=
  m.fifo = rest
  ∧ (rest = [] → m.stage = none ∧ m.stageTimer = none ∧ m.setup = none)
  ∧ ∀ x more, rest = x :: more → m.stage = some .foreign ∧ m.stageTimer = some 40 ∧ m.setup = some (x.bus, .foreign)

/-- The command of bus k has left the request FIFO, wherever it stood (R119, R138): the other requests keep their order; when
it was the front, the next request starts its FOREIGN stage, or with none the stage is IDLE; when it was not, the request in
progress goes on in its stage. -/
def leftFifo (h t : Hw) (k : BusId) : Prop :=
  let rest := h.meas.fifo.filter fun r => r.bus ≠ k
  t.meas.fifo = rest
  ∧ (h.meas.fifo.head?.map TestRequest.bus = some k → frontStarts t.meas rest)
  ∧ (h.meas.fifo.head?.map TestRequest.bus ≠ some k →
      t.meas.stage = h.meas.stage ∧ t.meas.stageTimer = h.meas.stageTimer ∧ t.meas.setup = h.meas.setup)

/-- A release of bus k from one state to another, with the error kind that a command in BUSY and a selection take (R104):
the record, the closing of the work in hand, with the next request's start, GRANTED, the return move of the pair, which is
taken off the bus as one change of its record, and consequent work. -/
def releasedBus (h t : Hw) (k : BusId) (busy : ErrorKind) (selecting : Option ErrorKind) : Prop :=
  busRecord t k = afterRelease h k
  ∧ ((busRecord h k).state = .selecting → (resultOf t k).status = .aborted ∧ (resultOf t k).error = selecting
      ∧ (resultOf t k).closedAt = some h.seconds)
  ∧ ((busRecord h k).state = .busy → (fifoPlace h k ≠ 0 ∨ (h.meas.tones.get k).isSome = true) →
      (resultOf t k).status = .aborted ∧ (resultOf t k).error = some busy
      ∧ (resultOf t k).closedAt = some h.seconds ∧ fifoPlace t k = 0 ∧ t.meas.tones.get k = none)
  ∧ ((busRecord h k).state = .busy → leftFifo h t k)
  ∧ ((busRecord h k).wait ≠ [] → ∀ p, (eventsOf h p).enable[busGroup k] = true → t.flag p (busGroup k) 0 = true)
  ∧ (∀ n, (busRecord h k).pair = some n → returned h t n)
  ∧ ((busRecord h k).state ≠ .busy → h.recordsStepped t fun n => (busRecord h k).pair == some n)
  ∧ ((busRecord h k).state = .busy → (fifoPlace h k ≠ 0 ∨ (h.meas.tones.get k).isSome = true) → summaryOfAbort h t k)
  ∧ t.sched.urgentPtr = h.sched.urgentPtr ∧ t.trunk = h.trunk ∧ t.store = h.store ∧ t.power = h.power

/-- The bus is READY with its lease and hold started (R106, R107). -/
def readied (h : Hw) (k : BusId) : BusRecord :=
  { busRecord h k with
    state := .ready
    lease := some (h.testBus.leaseSetting * 1000)
    hold := if h.testBus.holdSetting = 0 then none else some (h.testBus.holdSetting * 1000) }

/-- A bus has work in hand: a selection, or a command in the FIFO or in its tone (R104, R112, R113). -/
def atWork (h : Hw) (k : BusId) : Prop :=
  (busRecord h k).state = .selecting
  ∨ ((busRecord h k).state = .busy ∧ (fifoPlace h k ≠ 0 ∨ (h.meas.tones.get k).isSome = true))

/-- An abort with an error kind has ended the work in hand of bus k, if any (R112, R113, R138): its record is closed
ABORTED, a MEASURE or VERIFY with the verdict ERROR, which its pair's summary takes too, its request or tone is gone, and
ABORTED is posted. -/
def workAborted (h t : Hw) (k : BusId) (e : ErrorKind) : Prop :=
  (atWork h k → resultOf t k = { resultOf h k with
        status := .aborted
        error := some e
        verdict := if (busRecord h k).state = .busy
            ∧ ((resultOf h k).command = some .measure ∨ (resultOf h k).command = some .verify) then .error else .none
        closedAt := some h.seconds }
      ∧ ∀ q, (eventsOf h q).enable[busGroup k] = true → t.flag q (busGroup k) 2 = true)
  ∧ (atWork h k → (busRecord h k).state = .busy → (∀ j, j ≠ k → (resultOf h j).pair ≠ (resultOf h k).pair) →
      summaryOfAbort h t k)
  ∧ (¬ atWork h k → resultOf t k = resultOf h k)
  ∧ ((busRecord h k).state = .busy → fifoPlace t k = 0 ∧ t.meas.tones.get k = none)

/-- An abort that takes the pair off has left bus k HELD at once, its holder and wait list kept (R112, R113). -/
def heldAfterAbort (h t : Hw) (k : BusId) (e : ErrorKind) : Prop :=
  busRecord t k = { busRecord h k with
      state := .held, pair := none, lease := some (h.testBus.leaseSetting * 1000), hold := none }
  ∧ workAborted h t k e

/-- The test on bus k, if any, is a MEASURE or VERIFY of pair n (R112). -/
def testsPair (h : Hw) (k : BusId) (n : PairIx) : Prop :=
  (busRecord h k).pair = some n ∧ (busRecord h k).state = .busy
    ∧ ((resultOf h k).command = some .measure ∨ (resultOf h k).command = some .verify)

/-- A read has found a word of pair n's stored part uncorrectable (R12, R13). Of a record that was poisoned already nothing
changes. Any other is poisoned: the stored part stands, the version with it; power and line power are held; the pair leaves
both eligible sets, its credit 0; its queues are flushed; every port has its notice; and a MEASURE or VERIFY of it is ended
with POISONED, its bus READY again (R112), the next request starting (R138). An entry to FAULT HOLD that the error makes
frees both buses instead (R113). -/
def pairHandled (h t : Hw) (n : PairIx) : Prop :=
  isPoisoned t n = true
  ∧ (isPoisoned h n = true → t = { h with integ := t.integ } ∧ t.integ.poisoned = h.integ.poisoned
      ∧ t.integ.corrections = h.integ.corrections ∧ t.integ.pending = h.integ.pending
      ∧ t.integ.faultHold = h.integ.faultHold ∧ t.integ.holdCause = h.integ.holdCause)
  ∧ (isPoisoned h n = false →
      storedPair t n = storedPair h n ∧ t.power.pairs[n] = { h.power.pairs[n] with frozen := true }
      ∧ queueEligible t n = false ∧ t.line.eligible[n] = false ∧ t.sched.eligible[n] = false
      ∧ (h.sched.eligible[n] = true → t.sched.credit[n] = 0)
      ∧ (∀ q, n ∈ t.pairTable.notices.get q)
      ∧ (h.store.flushable n → t.store.queueIs (upq n) [] 0 ∧ t.store.queueIs (dnq n) [] 0)
      ∧ ((∀ m, m ≠ n → h.undamaged m) → h.store.flushedOf t.store n)
      ∧ (t.integ.faultHold = h.integ.faultHold → ∀ k,
          (testsPair h k n → atWork h k → (∀ j, j ≠ k → (busRecord h j).pair ≠ some n) →
            busRecord t k = readied h k ∧ workAborted h t k .poisoned
            ∧ ((∀ m, m ≠ n → h.undamaged m) → leftFifo h t k))
          ∧ (¬ testsPair h k n → (∀ m, m ≠ n → h.undamaged m) →
            busRecord t k = busRecord h k ∧ resultOf t k = resultOf h k))
      ∧ (h.integ.faultHold = false → t.integ.faultHold = true →
          ∀ k, busRecord t k = ⟨.free, none, [], none, none, none, none⟩))

/-- A millisecond timer a millisecond later: one that is stopped stays stopped. -/
def msLater : Timer → Timer := Option.map fun ms => ms - 1

end Sys2Proof.Machine

open Sys2Proof Sys2Proof.Machine

/-! ### The machine -/

/-- A step takes the command at the front of the queue and runs it on the state with the queue's rest (log 1). -/
def Obligations.StepTakesFrontCommand : Prop :=
  ∀ (c : Instr) (s : State), step { s with pending := c :: s.pending } = exec c s

/-- With no command waiting a step lets one millisecond pass at every running timer, and changes nothing else. That it
does is the model's choice (log 2). -/
def Obligations.IdleStepPassesOneMillisecond : Prop :=
  ∀ s : State, s.pending = [] → ∃ t, step s = .next t ∧ t.pending = []
    ∧ t.hw.seconds = s.hw.seconds ∧ t.hw.events = s.hw.events ∧ t.hw.pairTable = s.hw.pairTable
    ∧ t.hw.store = s.hw.store ∧ t.hw.sched = s.hw.sched ∧ t.hw.line = s.hw.line ∧ t.hw.requests = s.hw.requests
    ∧ (∀ p, portOf t.hw p = { portOf s.hw p with gapTimer := msLater (portOf s.hw p).gapTimer })
    ∧ t.hw.trunk = { s.hw.trunk with
        silence := msLater s.hw.trunk.silence, doneTimer := msLater s.hw.trunk.doneTimer }
    ∧ t.hw.relay = { s.hw.relay with
        slots := t.hw.relay.slots, guardTimers := t.hw.relay.guardTimers }
    ∧ (∀ i : SlotIx, t.hw.relay.slots[i]
        = s.hw.relay.slots[i].map fun m => { m with remaining := m.remaining - 1 })
    ∧ (∀ b : BlockIx, t.hw.relay.guardTimers[b] = msLater s.hw.relay.guardTimers[b])
    ∧ t.hw.testBus = { s.hw.testBus with bus := t.hw.testBus.bus }
    ∧ (∀ k, busRecord t.hw k = { busRecord s.hw k with
        lease := msLater (busRecord s.hw k).lease, hold := msLater (busRecord s.hw k).hold })
    ∧ t.hw.meas = { s.hw.meas with stageTimer := msLater s.hw.meas.stageTimer, tones := t.hw.meas.tones }
    ∧ (∀ k, t.hw.meas.tones.get k = msLater (s.hw.meas.tones.get k))
    ∧ (∀ i : SenseIx, t.hw.sense[i] = { s.hw.sense[i] with timer := s.hw.sense[i].timer - 1 })
    ∧ t.hw.power = { s.hw.power with
        graceTimer := msLater s.hw.power.graceTimer, restoreTimer := msLater s.hw.power.restoreTimer
        stepTimer := msLater s.hw.power.stepTimer }
    ∧ t.hw.integ = { s.hw.integ with scrubTimer := msLater s.hw.integ.scrubTimer }

/-- A command of the command code table that its port has not passed, or that has been withdrawn, changes nothing: the
model's reading of a row with no frame behind it (log 1). -/
def Obligations.CommandNotPassedChangesNothing : Prop :=
  ∀ (i : Instr) (c : Cmd) (p : Port) (args : List Byte) (s : State), i.passing = some (c, p, args) →
    (portOf s.hw p).passed ≠ some ⟨c, args⟩ → exec i s = .next s

/-- R182, step 3: every command that its port has passed is taken, and its answer reaches the port, the port's other
buffers as they were; with the abort mark it is discarded. The other ports' units do not change. RESET PART, which
clears all three ports first, has a statement of its own. -/
def Obligations.TakenCommandAnswersItsPort : Prop :=
  ∀ (i : Instr) (c : Cmd) (p : Port) (args : List Byte) (s : State), i.passing = some (c, p, args) → c ≠ .resetPart →
    Waits s p c args → ∃ t, exec i s = .next t ∧ t.pending = s.pending ∧ t.hw.requests = []
      ∧ (∀ q, q ≠ p → portOf t.hw q = portOf s.hw q)
      ∧ ((portOf s.hw p).abortMark = true → portOf t.hw p
          = { portOf s.hw p with state := .idle, answer := none, abortMark := false, passed := none })
      ∧ ((portOf s.hw p).abortMark = false → ∃ (code : AnswerCode) (data : List Byte), portOf t.hw p
          = { portOf s.hw p with
                state := .answer
                answer := some ⟨[cmdCode c, encodeAnswer code, byte data.length] ++ data, 0⟩
                gapTimer := none
                passed := none })

/-! ### Resets and time -/

/-- The machine right after reset holds the values the spec's reset tables give, and a full reset in any state leaves them;
it leaves the payload slots, which no rule resets, as they were (log 25). That the move of pair i of the first four runs in
slot i is the model's choice (log 46). R1: at a SECONDS TICK the seconds counter
advances by one, wrapping at 32 bits, and nothing else changes. -/
def Obligations.ResetsAndSecondsTickAsStated : Prop :=
  (State.reset.pending = [] ∧ afterFullReset State.reset.hw)
  ∧ (∀ s : State, ∃ t, exec .fullReset s = .next t ∧ t.pending = s.pending ∧ afterFullReset t.hw
    ∧ t.hw.store.payload = s.hw.store.payload ∧ t.hw.requests = [])
  ∧ ∀ s : State, ∃ t, exec .secondsTick s = .next t ∧ t = { s with hw := { s.hw with seconds := t.hw.seconds } }
    ∧ t.hw.seconds.toNat = (s.hw.seconds.toNat + 1) % 4294967296

/-! ### Port units -/

/-- R181, R182, R184 and R185. A byte at address 0: in IDLE or ANSWER it is the command code of a new frame; in WORKING it
is dropped and OVERRUN is set. In COLLECTING it is the argument count, RANGE above 14, or the next argument byte; the frame
is complete with its count of 0 or its Nth argument byte, and is then taken. The expiry of the gap timer in COLLECTING
discards the frame and sets GAP; FRAME ABORT empties the clear latch and acts by port state; a write that names nothing
changes nothing. Nothing but the port unit changes, and of it in COLLECTING neither the abort mark, OVERRUN, GAP, the
latches nor the data pins. -/
def Obligations.FrameIsBuiltTakenOrDiscarded : Prop :=
  (∀ (p : Port) (b : Byte) (s : State),
    (((portOf s.hw p).state = .idle ∨ (portOf s.hw p).state = .answer) →
      exec (.frameByteWrite p b) s = .next (withPort s p
        { portOf s.hw p with
            state := .collecting, frame := ⟨some b, none, []⟩, answer := none, gapTimer := some 50 }))
    ∧ ((portOf s.hw p).state = .working →
      exec (.frameByteWrite p b) s = .next (withPort s p { portOf s.hw p with overrun := true }))
    ∧ ∀ code, (portOf s.hw p).state = .collecting → (portOf s.hw p).frame.code = some code →
      (portOf s.hw p).answer = none →
      ∃ u, exec (.frameByteWrite p b) s = .next (withPort s p u)
        ∧ u.abortMark = (portOf s.hw p).abortMark ∧ u.overrun = (portOf s.hw p).overrun
        ∧ u.gap = (portOf s.hw p).gap ∧ u.takeLatch = (portOf s.hw p).takeLatch
        ∧ u.clearLatch = (portOf s.hw p).clearLatch ∧ u.dataOut = (portOf s.hw p).dataOut
        ∧ ((portOf s.hw p).frame.count = none →
            (14 < b.toNat → u.repliesPlain code 0x05)
            ∧ (b.toNat = 0 → u.tookFrame p code (portOf s.hw p).frame.args)
            ∧ (1 ≤ b.toNat ∧ b.toNat ≤ 14 → u.state = .collecting ∧ u.gapTimer = some 50
                ∧ u.frame = { (portOf s.hw p).frame with count := some b.toNat }))
        ∧ (∀ n, (portOf s.hw p).frame.count = some n →
            ((portOf s.hw p).frame.args.length + 1 < n → u.state = .collecting ∧ u.gapTimer = some 50
                ∧ u.frame = { (portOf s.hw p).frame with args := (portOf s.hw p).frame.args ++ [b] })
            ∧ (n ≤ (portOf s.hw p).frame.args.length + 1 →
                u.tookFrame p code ((portOf s.hw p).frame.args ++ [b]))))
  ∧ (∀ (p : Port) (s : State),
    ((portOf s.hw p).state = .collecting → (portOf s.hw p).gapTimer.isSome = true →
      exec (.gapTimerExpiry p) s = .next (withPort s p
        { portOf s.hw p with state := .idle, frame := ⟨none, none, []⟩, gap := true, gapTimer := none }))
    ∧ ((portOf s.hw p).gapTimer = none → exec (.gapTimerExpiry p) s = .next s)
    ∧ exec (.frameAbort p) s = .next (withPort s p
        (match (portOf s.hw p).state with
          | .idle => { portOf s.hw p with clearLatch := none }
          | .collecting => { portOf s.hw p with
              clearLatch := none, state := .idle, frame := ⟨none, none, []⟩, gapTimer := none }
          | .working => { portOf s.hw p with clearLatch := none, abortMark := true }
          | .answer => { portOf s.hw p with clearLatch := none, state := .idle, answer := none }))
    ∧ ∀ w, exec (.registerWriteIgnored p w) s = .next s)

/-- R183 and R188: a read at address 0 in ANSWER returns the byte at the read position and advances it, and with the last
byte the answer is emptied and the port is IDLE; in any other state it returns 00h and changes nothing. A read at address
1 returns the port state in bits 1 and 0, OVERRUN in bit 2, GAP in bit 3 and INT in bit 4, and clears OVERRUN and GAP;
INT is asserted while some enabled group with a pending flag has a level below the mask level. -/
def Obligations.RegisterReadsAnswerAndStatus : Prop :=
  ∀ (p : Port) (s : State),
    (∃ u, exec (.answerByteRead p) s = .next (withPort s p u)
      ∧ ((portOf s.hw p).state ≠ .answer → u = { portOf s.hw p with dataOut := 0 })
      ∧ ∀ (bytes : List Byte) (pos : Nat) (b : Byte), (portOf s.hw p).state = .answer →
          (portOf s.hw p).answer = some ⟨bytes, pos⟩ → bytes[pos]? = some b →
          (pos + 1 < bytes.length → u = { portOf s.hw p with dataOut := b, answer := some ⟨bytes, pos + 1⟩ })
          ∧ (pos + 1 = bytes.length → u = { portOf s.hw p with dataOut := b, answer := none, state := .idle }))
    ∧ (∃ u, exec (.statusRead p) s = .next (withPort s p u)
      ∧ u = { portOf s.hw p with overrun := false, gap := false, dataOut := u.dataOut }
      ∧ u.dataOut.toNat
          = (match (portOf s.hw p).state with | .idle => 0 | .collecting => 1 | .working => 2 | .answer => 3)
            + (if (portOf s.hw p).overrun then 4 else 0) + (if (portOf s.hw p).gap then 8 else 0)
            + (if (eventsOf s.hw p).int then 16 else 0))
    ∧ ((eventsOf s.hw p).int = true ↔ ∃ g : Fin 8, (eventsOf s.hw p).enable[g] = true
        ∧ (eventsOf s.hw p).pending[g] ≠ 0 ∧ (eventsOf s.hw p).level[g].val < (eventsOf s.hw p).mask.val)

/-! ### Port clear, events and notices -/

/-- R186: a port clear discards the port's frame, answer, flags and notices, keeps its enables, levels and mask level, and
leaves the port neither holding a bus nor waiting for one. A WORKING port stays WORKING with the abort mark. When the
port holds no bus, nothing else changes, the flags that stand are the level-triggered sense flags whose condition holds,
and the port leaves every wait list. R104 and R114: with the stored parts undamaged each bus it holds passes to the
oldest waiter; one that is the only bus it holds is released as by RELEASE BUS, its work ended with STOPPED. -/
def Obligations.PortClearDiscardsPortsThings : Prop :=
  ∀ (p : Port) (s : State), s.hw.orderly → s.hw.requests = [] →
    ∃ t, exec (.portClear p) s = .next t ∧ t.pending = s.pending
      ∧ portOf t.hw p = { portOf s.hw p with
          state := if (portOf s.hw p).state = .working then .working else .idle
          frame := ⟨none, none, []⟩
          answer := none
          abortMark := decide ((portOf s.hw p).state = .working)
          overrun := false
          gap := false
          gapTimer := none
          takeLatch := none
          clearLatch := none }
      ∧ (∀ q, q ≠ p → portOf t.hw q = portOf s.hw q)
      ∧ (∀ q, (eventsOf t.hw q).config = (eventsOf s.hw q).config)
      ∧ (∀ k, ¬ (busRecord t.hw k).concerns p)
      ∧ ((∀ k, (busRecord s.hw k).holder ≠ some p) →
          (∀ g : Fin 8, (eventsOf t.hw p).pending[g]
            = if (eventsOf s.hw p).enable[g] then senseConditions s.hw g else 0)
          ∧ t.hw = { s.hw with
              ports := t.hw.ports
              events := s.hw.events.set p (eventsOf t.hw p)
              pairTable := { s.hw.pairTable with notices := s.hw.pairTable.notices.set p [] }
              testBus := { s.hw.testBus with bus := t.hw.testBus.bus } }
          ∧ ∀ k, busRecord t.hw k
              = { busRecord s.hw k with wait := (busRecord s.hw k).wait.filter fun q => q ≠ p })
      ∧ (∀ k, (busRecord s.hw k).holder = some p → s.hw.pairsGood →
          (busRecord t.hw k).holder = (busRecord s.hw k).wait.head?
          ∧ (busRecord t.hw k).wait = (busRecord s.hw k).wait.tail
          ∧ ((busRecord s.hw k).coherent → (∀ j, j ≠ k → (busRecord s.hw j).holder ≠ some p) →
              releasedBus s.hw t.hw k .stopped none))

/-- R188 and R189. The first read at address 2 returns the enabled group with pending flags whose level is lowest, ties
going to the lower number, and places its flags in the take latch, or returns FFh and places 00h; the second returns the
latch and empties it; no flag is cleared. The first byte written at address 2 is held as the group, the second clears the
flags it names from that group and empties the latch, a condition-based flag (NOTICE, and those of level-triggered sense
inputs) being set again when its condition holds; a group above 7, or one disabled at the port, makes the clear change
nothing. Nothing else changes. -/
def Obligations.EventsAreTakenAndCleared : Prop :=
  (∀ (p : Port) (s : State), ∃ u, exec (.takeEvent p) s = .next (withPort s p u)
    ∧ (∀ b, (portOf s.hw p).takeLatch = some b → u = { portOf s.hw p with dataOut := b, takeLatch := none })
    ∧ ((portOf s.hw p).takeLatch = none →
        (∀ g : Fin 8, (eventsOf s.hw p).enable[g] = true → (eventsOf s.hw p).pending[g] = 0) →
        u = { portOf s.hw p with dataOut := 0xFF, takeLatch := some 0 })
    ∧ ∀ g : Fin 8, (portOf s.hw p).takeLatch = none → (eventsOf s.hw p).enable[g] = true →
        (eventsOf s.hw p).pending[g] ≠ 0 →
        (∀ j : Fin 8, (eventsOf s.hw p).enable[j] = true → (eventsOf s.hw p).pending[j] ≠ 0 →
          (eventsOf s.hw p).level[g] < (eventsOf s.hw p).level[j]
          ∨ ((eventsOf s.hw p).level[g] = (eventsOf s.hw p).level[j] ∧ g ≤ j)) →
        u = { portOf s.hw p with dataOut := BitVec.ofNat 8 g.val, takeLatch := some (eventsOf s.hw p).pending[g] })
  ∧ (∀ (p : Port) (b : Byte) (s : State),
    ((portOf s.hw p).clearLatch = none →
      exec (.clearEvent p b) s = .next (withPort s p { portOf s.hw p with clearLatch := some b }))
    ∧ (∀ x, (portOf s.hw p).clearLatch = some x →
        (8 ≤ x.toNat ∨ ∃ g : Fin 8, g.val = x.toNat ∧ (eventsOf s.hw p).enable[g] = false) →
        exec (.clearEvent p b) s = .next (withPort s p { portOf s.hw p with clearLatch := none }))
    ∧ ∀ g : Fin 8, (portOf s.hw p).clearLatch = some (BitVec.ofNat 8 g.val) → (eventsOf s.hw p).enable[g] = true →
        ∃ e : EventPort, exec (.clearEvent p b) s
            = .next { s with hw := setEventsOf p e (setPort p { portOf s.hw p with clearLatch := none } s.hw) }
          ∧ e.config = (eventsOf s.hw p).config
          ∧ (∀ j : Fin 8, j ≠ g → e.pending[j] = (eventsOf s.hw p).pending[j])
          ∧ ∀ i, i < 8 → (e.pending[g].getLsbD i = true ↔
              if b.getLsbD i then
                (g = 7 ∧ i = 0 ∧ s.hw.pairTable.notices.get p ≠ [])
                ∨ ∃ j : SenseIx, (senseFlag j).group = g ∧ (senseFlag j).bit = i ∧ levelConditionHolds s.hw.sense[j] = true
              else (eventsOf s.hw p).pending[g].getLsbD i = true))

/-- R19: a read at address 3 takes the oldest entry from the port's notice queue and returns its pair number, or FFh
when the queue is empty; in every port state, FAULT HOLD included, and with no other change. -/
def Obligations.NoticeReadTakesOldestEntry : Prop :=
  ∀ (p : Port) (s : State), exec (.noticeRead p) s
    = .next { s with hw :=
        { setPort p { portOf s.hw p with dataOut :=
            match s.hw.pairTable.notices.get p with
              | [] => 0xFF
              | n :: _ => BitVec.ofNat 8 n.val } s.hw with
          pairTable := { s.hw.pairTable with
            notices := s.hw.pairTable.notices.set p (s.hw.pairTable.notices.get p).tail } } }

/-- R187: a posting sets its flag at every port where the flag's group is enabled and leaves every other flag, enable,
level and mask level as it is. R16 and R17: a notice posted for a pair joins the end of the notice queue of each port in
which the pair is not present, and keeps its place in any other; where it joins, and group 7 is enabled, NOTICE is set, and
nothing else changes. R13 and R14: a change of a pair's record advances its version by one, but that of a poisoned record
not, and posts a notice. That the advance writes the first word without reading it is the model's reading (log 10). -/
def Obligations.PostingsSetFlagsAndJoinNotices : Prop :=
  (∀ (f : EventFlag) (h : Hw), post f h = { h with events := (post f h).events }
    ∧ ∀ (p : Port), (eventsOf (post f h) p).config = (eventsOf h p).config
      ∧ ∀ (g : Fin 8) (i : Nat), i < 8 → ((post f h).flag p g i = true ↔
          h.flag p g i = true ∨ (g = f.group ∧ i = f.bit ∧ (eventsOf h p).enable[g] = true)))
  ∧ (∀ (n : PairIx) (h : Hw), ∃ t, postNotice n h = t
    ∧ t = { h with events := t.events, pairTable := { h.pairTable with notices := t.pairTable.notices } }
    ∧ ∀ p : Port, t.pairTable.notices.get p
          = (if n ∈ h.pairTable.notices.get p then h.pairTable.notices.get p else h.pairTable.notices.get p ++ [n])
      ∧ (eventsOf t p).config = (eventsOf h p).config
      ∧ ∀ (g : Fin 8) (i : Nat), i < 8 → (t.flag p g i = true ↔ h.flag p g i = true
          ∨ (g = 7 ∧ i = 0 ∧ n ∉ h.pairTable.notices.get p ∧ (eventsOf h p).enable[g] = true)))
  ∧ ∀ (n : PairIx) (h : Hw), stepRecord n h = postNotice n (setStored n (h.recordAfter n 1) h)

/-- R190: SET EVENTS, every answer and effect. A group disabled loses its flags; one enabled starts with the
condition-based flags whose condition holds. Beside it SET MASK (R191), every answer and effect. That both answers carry INT
as 1 when it is asserted and 0 when it is not is the model's choice (log 22). -/
def Obligations.SetEventsAndSetMaskConfigurePort : Prop :=
  (∀ (p : Port) (args : List Byte) (s : State), Waits s p .setEvents args →
    (s.hw.integ.faultHold = true → exec (.setEvents p args) s = .next (answered s p .setEvents .fault [] s.hw))
    ∧ (s.hw.integ.faultHold = false → args = [] →
        exec (.setEvents p args) s = .next (answered s p .setEvents .missing [] s.hw))
    ∧ ∀ (b : Byte) (rest : List Byte), s.hw.integ.faultHold = false → args = b :: rest →
        ((7 < b.toNat ∨ (∃ x, rest[0]? = some x ∧ 1 < x.toNat) ∨ (∃ x, rest[1]? = some x ∧ 7 < x.toNat)
            ∨ (b = 0 ∧ (rest[0]? = some 0 ∨ ∃ x, rest[1]? = some x ∧ x ≠ 0))) →
          exec (.setEvents p args) s = .next (answered s p .setEvents .range [] s.hw))
        ∧ ∀ (g : Fin 8) (on : Bool) (l : Fin 8), b = BitVec.ofNat 8 g.val →
            (rest[0]? = none ∧ on = (eventsOf s.hw p).enable[g] ∨ rest[0]? = some (if on then 1 else 0)) →
            (rest[1]? = none ∧ l = (eventsOf s.hw p).level[g] ∨ rest[1]? = some (BitVec.ofNat 8 l.val)) →
            (g = 0 → on = true ∧ (rest[0]? ≠ some 0) ∧ (rest[1]? = none ∨ l = 0)) →
            ∃ e : EventPort, exec (.setEvents p args) s = .next (answered s p .setEvents .ok
                [if on then 1 else 0, BitVec.ofNat 8 l.val, e.pending[g], if e.int then 1 else 0] (setEventsOf p e s.hw))
              ∧ e = { eventsOf s.hw p with
                  enable := (eventsOf s.hw p).enable.set g on
                  level := (eventsOf s.hw p).level.set g l
                  pending := (eventsOf s.hw p).pending.set g
                    (if on = (eventsOf s.hw p).enable[g] then (eventsOf s.hw p).pending[g]
                      else if on then conditionFlags s.hw p g else 0) })
  ∧ ∀ (p : Port) (args : List Byte) (s : State), Waits s p .setMask args →
    (s.hw.integ.faultHold = true → exec (.setMask p args) s = .next (answered s p .setMask .fault [] s.hw))
    ∧ (s.hw.integ.faultHold = false → args = [] →
        exec (.setMask p args) s = .next (answered s p .setMask .missing [] s.hw))
    ∧ ∀ (b : Byte) (rest : List Byte), s.hw.integ.faultHold = false → args = b :: rest →
        (8 < b.toNat → exec (.setMask p args) s = .next (answered s p .setMask .range [] s.hw))
        ∧ ∀ m : Fin 9, b = BitVec.ofNat 8 m.val →
            exec (.setMask p args) s = .next (answered s p .setMask .ok
              [b, if ({ eventsOf s.hw p with mask := m } : EventPort).int then 1 else 0]
              (setEventsOf p { eventsOf s.hw p with mask := m } s.hw))

/-! ### FAULT HOLD -/

namespace Sys2Proof.Machine

/-- The commands refused FAULT in FAULT HOLD (R174 and the commands' own rules). -/
def refusedInFaultHold : List Cmd :=
  [.provision, .setTier, .rebuildPair, .setQueueLimits, .flushQueue, .setTrunk, .isolate, .unisolate, .setRelayTiming,
   .claimBus, .releaseBus, .selectPair, .deselect, .forceRelease, .setBusTiming, .measure, .verify, .tone, .stop,
   .overlayOpen, .overlayWrite, .overlayArm, .overlayRetire, .overlayClose, .setSense, .setPowerPolicy, .ackFault,
   .setScrub, .clearCorrections, .setEvents, .setMask]

/-- The commands by which a holder that names its bus restarts the bus's timers (R106, R107). -/
def busNamingCmds : List Cmd :=
  [.claimBus, .selectPair, .deselect, .measure, .verify, .tone, .stop, .readBus, .readResult]

/-- What a command leaves of the part when it is refused: the part as it was, but that the lease and the hold of a bus
that its holder has named are restarted (R106, R107). -/
def afterNaming (c : Cmd) (p : Port) (args : List Byte) (h : Hw) : Hw :=
  match (arg args 0).bind decodeBus with
  | some k => if c ∈ busNamingCmds then touchBus p k h else h
  | none => h

end Sys2Proof.Machine

/-- R11, R43, R59, R79, R112 and R174. In FAULT HOLD each of these commands is answered FAULT and does nothing else, but
that the timers of R106 and R107 restart when a holder names its bus. Entry to FAULT HOLD sets the flag and the cause,
posts FAULT_HOLD, empties both eligible sets, sets the credit of every pair that leaves to 0, and ends transmit
permission; no record changes. R113: the abort with FAULT that it sends frees both buses and closes the record of the
work in hand, and the abort with POWER leaves HELD each bus that is SELECTING, READY or BUSY. R112: a poison abort ends a
MEASURE or VERIFY on the pair, the bus returning to READY, and changes nothing in any other case; a surge abort leaves
the bus that has the pair HELD at once, and changes nothing when none has it. R138: after either, the stored parts being
undamaged, the next request starts when the one ended was the front. The aborts with FAULT, POWER and SURGE
request the return move of each pair they take off, which is one change of its record. That an aborted SELECT or TONE takes
no verdict, and that such a change writes the first word without reading it, is the model's reading (log 28, log 10). -/
def Obligations.FaultHoldEndsTrafficAndAbortsEndWork : Prop :=
  (∀ (i : Instr) (c : Cmd) (p : Port) (args : List Byte) (s : State), i.passing = some (c, p, args) →
    c ∈ refusedInFaultHold → Waits s p c args → s.hw.integ.faultHold = true →
    exec i s = .next (answered s p c .fault [] (afterNaming c p args s.hw)))
  ∧ (∀ (kind : HoldKind) (i : Nat) (h : Hw), ∃ t, enterFaultHold kind i h = t
    ∧ t.integ = { h.integ with faultHold := true, holdCause := some (kind, ⟨i, h.seconds⟩) }
    ∧ (∀ n : PairIx, t.line.eligible[n] = false ∧ t.sched.eligible[n] = false ∧ exchangeEligible t n = false
        ∧ t.sched.credit[n] = if h.sched.eligible[n] then 0 else h.sched.credit[n])
    ∧ t.trunk = { h.trunk with permitted := false }
    ∧ t.pairTable = h.pairTable ∧ t.store = h.store ∧ t.relay = h.relay ∧ t.power = h.power
    ∧ t.requests = h.requests ++ [.faultAbort]
    ∧ (∀ p, (eventsOf h p).enable[(0 : Fin 8)] = true → t.flag p 0 0 = true))
  ∧ (∀ (h : Hw) (k : BusId), ∃ t, takeRequest .faultAbort h = t ∧ Follows h t ∧ workAborted h t k .fault
    ∧ busRecord t k = ⟨.free, none, [], none, none, none, none⟩
    ∧ (∀ n, (busRecord h k).pair = some n → returned h t n)
    ∧ ((∀ j, (busRecord h j).state ≠ .busy) → (∀ n, (busRecord h .bus0).pair = some n → (busRecord h .bus1).pair ≠ some n) →
        h.recordsStepped t fun n => (busOf h n).isSome))
  ∧ (∀ (h : Hw) (k : BusId), ∃ t, powerAbort h = t ∧ Follows h t
    ∧ (((busRecord h k).state = .selecting ∨ (busRecord h k).state = .ready ∨ (busRecord h k).state = .busy) →
        heldAfterAbort h t k .power ∧ ∀ n, (busRecord h k).pair = some n → returned h t n)
    ∧ ((∀ j, (busRecord h j).coherent ∧ (busRecord h j).state ≠ .busy) →
        (∀ n, (busRecord h .bus0).pair = some n → (busRecord h .bus1).pair ≠ some n) →
        h.recordsStepped t fun n => (busOf h n).isSome)
    ∧ (((busRecord h k).state = .free ∨ (busRecord h k).state = .held ∨ (busRecord h k).state = .deselecting) →
        busRecord t k = busRecord h k ∧ resultOf t k = resultOf h k))
  ∧ (∀ (n : PairIx) (h : Hw),
    ((∀ k, (busRecord h k).pair = some n → (busRecord h k).state = .busy →
        (resultOf h k).command ≠ some .measure ∧ (resultOf h k).command ≠ some .verify) →
      takeRequest (.poisonAbort n) h = h)
    ∧ ∀ k, (busRecord h k).pair = some n → (busRecord h k).state = .busy → atWork h k →
      ((resultOf h k).command = some .measure ∨ (resultOf h k).command = some .verify) →
      (∀ j, j ≠ k → (busRecord h j).pair ≠ some n) →
      ∃ t, takeRequest (.poisonAbort n) h = t ∧ Follows h t ∧ busRecord t k = readied h k ∧ workAborted h t k .poisoned
        ∧ (h.pairsGood → leftFifo h t k))
  ∧ ∀ (n : PairIx) (h : Hw),
    ((∀ k, (busRecord h k).pair ≠ some n) → surgeAbort n h = h)
    ∧ ∀ k, (busRecord h k).pair = some n → (∀ j, j ≠ k → (busRecord h j).pair ≠ some n) →
      ∃ t, surgeAbort n h = t ∧ Follows h t ∧ heldAfterAbort h t k .surge ∧ returned h t n
        ∧ ((busRecord h k).state = .busy → h.pairsGood → leftFifo h t k)
        ∧ ((busRecord h k).state ≠ .busy → h.recordsStepped t fun m => m == n)

/-! ### The pair table -/

namespace Sys2Proof.Machine

/-- A relay position as a number (R194). -/
def posNumber : RelayPos → Nat
  | .unknown => 0 | .through => 1 | .bus0 => 2 | .bus1 => 3 | .isolated => 4

/-- A verdict as a byte (R194). -/
def verdictByte : Verdict → Byte
  | .none => 0 | .pass => 1 | .fail => 2 | .error => 3

/-- Flags as the bits of a byte, bit 0 first (R194). -/
def flagBits (flags : List Bool) : Byte :=
  BitVec.ofNat 8 (flags.foldr (fun b rest => (if b then 1 else 0) + 2 * rest) 0)

/-- A number in one byte, FFh for none (R194). -/
def orNone (x : Option Nat) : Byte :=
  match x with
  | none => 0xFF
  | some v => BitVec.ofNat 8 v

/-- The pair record view in its 20 bytes as R194 lays it out, the stored fields of a poisoned record at their full-reset
values (R13). -/
def shownView (h : Hw) (n : PairIx) : List Byte :=
  let bad := isPoisoned h n
  let x := storedPair h n
  let r := h.relay.pairs[n]
  [BitVec.ofNat 8 n.val] ++ bytes2 (if bad then 0 else x.first.val.version.toNat)
  ++ [if bad then 0 else match x.first.val.service with | .disabled => 0 | .active => 1 | .suspended => 2,
      if bad then 3 else BitVec.ofNat 8 x.first.val.tier.val,
      if bad then 1 else BitVec.ofNat 8 x.first.val.weight.val,
      flagBits [bad, h.power.pairs[n].powered, h.power.pairs[n].line, r.moving, h.store.congested[upq n],
        queueEligible h n, exchangeEligible h n, h.line.activity[n].isNone],
      BitVec.ofNat 8 (posNumber r.pos + 16 * posNumber r.target),
      match r.guard with | .none => 0 | .surge => 1 | .manual => 2,
      match busOf h n with | some .bus0 => 0 | some .bus1 => 1 | none => 0xFF]
  ++ bytes4 (h.line.activity[n].getD 0).toNat
  ++ [if bad then 0 else verdictByte x.second.val.verdict,
      if bad then 0xFF else orNone (x.second.val.profile.map Fin.val)]
  ++ bytes4 (if bad then 0 else x.third.val.toNat)

/-- The expected version given as two bytes at a place, if any (R15). -/
def expected (args : List Byte) (i : Nat) : Option Half :=
  match args[i]?, args[i + 1]? with
  | some hi, some lo => some (hi ++ lo)
  | _, _ => none

end Sys2Proof.Machine

/-- R18 and R20: READ PAIR answers MISSING, RANGE, or OK with the view as it stands after its reads; NEXT NOTICE takes
the oldest entry and answers its view, or FFh alone. With the stored part undamaged nothing but that entry changes; the
work that a damaged word causes stays in the frame. R13 and R194: the view is laid out in its 20 bytes; that of a poisoned
record shows poisoned yes and its stored fields at their full-reset values. -/
def Obligations.PairReadsAnswerTheView : Prop :=
  ∀ (p : Port) (args : List Byte) (s : State),
    (Waits s p .readPair args →
      (args = [] → exec (.readPair p args) s = .next (answered s p .readPair .missing [] s.hw))
      ∧ (∀ b rest, args = b :: rest → 23 < b.toNat →
          exec (.readPair p args) s = .next (answered s p .readPair .range [] s.hw))
      ∧ ∀ (n : PairIx) rest, args = BitVec.ofNat 8 n.val :: rest →
          ∃ h, exec (.readPair p args) s = .next (answered s p .readPair .ok (viewOf h n) h)
            ∧ Follows s.hw h ∧ (viewOf h n).length = 20 ∧ (s.hw.undamaged n → h = s.hw))
    ∧ (Waits s p .nextNotice args →
      (s.hw.pairTable.notices.get p = [] →
        exec (.nextNotice p args) s = .next (answered s p .nextNotice .ok [0xFF] s.hw))
      ∧ ∀ (n : PairIx) rest, s.hw.pairTable.notices.get p = n :: rest →
          ∃ h, exec (.nextNotice p args) s = .next (answered s p .nextNotice .ok (viewOf h n) h)
            ∧ Follows (dropNotice p s.hw) h ∧ (s.hw.undamaged n → h = dropNotice p s.hw))
    ∧ (∀ (h : Hw) (n : PairIx), viewOf h n = shownView h n)
    ∧ ∀ (h : Hw) (n : PairIx), isPoisoned h n = true →
        (viewOf h n)[0]? = some (BitVec.ofNat 8 n.val) ∧ (viewOf h n)[1]? = some 0 ∧ (viewOf h n)[2]? = some 0
        ∧ (viewOf h n)[3]? = some 0 ∧ (viewOf h n)[4]? = some 3 ∧ (viewOf h n)[5]? = some 1
        ∧ (∃ b, (viewOf h n)[6]? = some b ∧ b.getLsbD 0 = true ∧ b.getLsbD 5 = false ∧ b.getLsbD 6 = false)
        ∧ (viewOf h n)[14]? = some 0 ∧ (viewOf h n)[15]? = some 0xFF ∧ (viewOf h n)[16]? = some 0
        ∧ (viewOf h n)[17]? = some 0 ∧ (viewOf h n)[18]? = some 0 ∧ (viewOf h n)[19]? = some 0

/-- R15, R21 and R22: the refusals of PROVISION and SET TIER, in their order: MISSING, RANGE, POISONED, STALE with the
current version. A record found poisoned by the read of the first word is taken as R12 gives; of one that is poisoned
already no word is read, the model's choice (log 60). STALE leaves what the read leaves: the word as it stands, or corrected
(R168). -/
def Obligations.ProvisionAndSetTierRefusals : Prop :=
  ∀ (p : Port) (args : List Byte) (s : State), s.hw.integ.faultHold = false →
    (Waits s p .provision args →
      ((args.length = 0 ∨ args.length = 4) →
        exec (.provision p args) s = .next (answered s p .provision .missing [] s.hw))
      ∧ ((args.length ≠ 0 ∧ args.length ≠ 4
            ∧ ((∃ b, args[0]? = some b ∧ 23 < b.toNat) ∨ (∃ b, args[1]? = some b ∧ 2 < b.toNat)
              ∨ ∃ b, args[2]? = some b ∧ (b = 0 ∨ 15 < b.toNat))) →
        exec (.provision p args) s = .next (answered s p .provision .range [] s.hw)))
    ∧ (Waits s p .setTier args →
      ((args.length = 0 ∨ args.length = 1 ∨ args.length = 3) →
        exec (.setTier p args) s = .next (answered s p .setTier .missing [] s.hw))
      ∧ ((args.length = 2 ∨ 4 ≤ args.length)
            → ((∃ b, args[0]? = some b ∧ 23 < b.toNat) ∨ ∃ b, args[1]? = some b ∧ 3 < b.toNat) →
        exec (.setTier p args) s = .next (answered s p .setTier .range [] s.hw)))
    ∧ ∀ n : PairIx, args[0]? = some (BitVec.ofNat 8 n.val) →
        (Waits s p .provision args → args.length ≠ 4 → (∀ b, args[1]? = some b → b.toNat ≤ 2) →
          (∀ b, args[2]? = some b → 1 ≤ b.toNat ∧ b.toNat ≤ 15) →
          (isPoisoned s.hw n = true → exec (.provision p args) s = .next (answered s p .provision .poisoned [] s.hw))
          ∧ (isPoisoned s.hw n = false → isPoisoned (checkPairWord n 0 s.hw) n = true →
              ∃ h, exec (.provision p args) s = .next (answered s p .provision .poisoned [] h) ∧ Follows s.hw h
                ∧ pairHandled s.hw h n)
          ∧ ∀ v h, isPoisoned s.hw n = false → firstWordRead s.hw h n → expected args 3 = some v →
              v ≠ (storedPair s.hw n).first.val.version →
              exec (.provision p args) s = .next (answered s p .provision .stale
                (bytes2 (storedPair s.hw n).first.val.version.toNat) h))
        ∧ (Waits s p .setTier args → args.length ≠ 3 → (∃ b, args[1]? = some b ∧ b.toNat ≤ 3) →
          (isPoisoned s.hw n = true → exec (.setTier p args) s = .next (answered s p .setTier .poisoned [] s.hw))
          ∧ (isPoisoned s.hw n = false → isPoisoned (checkPairWord n 0 s.hw) n = true →
              ∃ h, exec (.setTier p args) s = .next (answered s p .setTier .poisoned [] h) ∧ Follows s.hw h
                ∧ pairHandled s.hw h n)
          ∧ ∀ v h, isPoisoned s.hw n = false → firstWordRead s.hw h n → expected args 2 = some v →
              v ≠ (storedPair s.hw n).first.val.version →
              exec (.setTier p args) s = .next (answered s p .setTier .stale
                (bytes2 (storedPair s.hw n).first.val.version.toNat) h))

/-- R5, R14, R16, R21: PROVISION on a record that can be read, its first word h having been read. A PROVISION that alters
nothing is answered OK and changes nothing; one of the weight alone writes it, advances the version by one and posts the
notice; one of the service also reaches the power unit, whose line power then follows, and the rest is consequent work.
The version advances by one, and once more for each change that this causes: of power or line power, and of congested by a
flush, the pair's queues being undamaged. R10 and R33: a change of service that ends queue eligibility empties both queues
of the pair and frees their cells; one after which the pair is queue-eligible leaves the cell store alone. -/
def Obligations.ProvisionApplies : Prop :=
  ∀ (p : Port) (args : List Byte) (s : State) (n : PairIx) (h : Hw) (w : ServiceWord) (service : Service)
    (weight : Fin 16), Waits s p .provision args → s.hw.integ.faultHold = false →
    args[0]? = some (BitVec.ofNat 8 n.val) → args.length ≠ 4 → isPoisoned s.hw n = false →
    h = checkPairWord n 0 s.hw → isPoisoned h n = false → w = (storedPair h n).first.val →
    ((args[1]? = none ∧ service = w.service) ∨ args[1]? = some (encodeService service)) →
    ((args[2]? = none ∧ weight = w.weight) ∨ (args[2]? = some (BitVec.ofNat 8 weight.val) ∧ weight ≠ 0)) →
    (∀ v, expected args 3 = some v → v = w.version) →
    (service = w.service → weight = w.weight →
      exec (.provision p args) s = .next (answered s p .provision .ok (bytes2 w.version.toNat) h))
    ∧ (service = w.service → weight ≠ w.weight →
      exec (.provision p args) s = .next (answered s p .provision .ok (bytes2 (w.version + 1).toNat)
        (refresh n (postNotice n (writeFirst n { w with weight, version := w.version + 1 } h)))))
    ∧ (service ≠ w.service → ∃ t : Hw,
        exec (.provision p args) s = .next (answered s p .provision .ok (bytes2 (shownVersion t n).toNat) t)
        ∧ Follows (writeFirst n { w with service, weight, version := w.version + 1 } h) t
        ∧ (h.store.flushable n → storedPair t n = { storedPair h n with
            first := ⟨{ w with
              service, weight, version := w.version + 1 + BitVec.ofNat 16 (consequentSteps h t n) }, .none⟩ })
        ∧ shedByChange h t n ∧ (∀ q, n ∈ t.pairTable.notices.get q) ∧ (s.hw.powerSound → t.powerSound))

/-- R5, R14, R16, R22: SET TIER on a record that can be read, its first word h having been read. A tier that does not
differ changes nothing; one that does is written, the version advances and the notice is posted, and the tier reaches the
power unit, whose power and line power then follow it; the rest is consequent work. The version advances by one, and once
more for each change that this causes: of power or line power, and of congested by a flush, the pair's queues being
undamaged. R10 and R33: a tier that ends queue eligibility, the pair losing its power, empties both queues of the pair and
frees their cells; one after which the pair is queue-eligible leaves the cell store alone. -/
def Obligations.SetTierApplies : Prop :=
  ∀ (p : Port) (args : List Byte) (s : State) (n : PairIx) (h : Hw) (w : ServiceWord) (tier : Fin 4),
    Waits s p .setTier args → s.hw.integ.faultHold = false →
    args[0]? = some (BitVec.ofNat 8 n.val) → args[1]? = some (BitVec.ofNat 8 tier.val) → args.length ≠ 3 →
    isPoisoned s.hw n = false → h = checkPairWord n 0 s.hw → isPoisoned h n = false →
    w = (storedPair h n).first.val → (∀ v, expected args 2 = some v → v = w.version) →
    (tier = w.tier →
      exec (.setTier p args) s = .next (answered s p .setTier .ok (bytes2 w.version.toNat) h))
    ∧ (tier ≠ w.tier → ∃ t : Hw,
        exec (.setTier p args) s = .next (answered s p .setTier .ok (bytes2 (shownVersion t n).toNat) t)
        ∧ Follows (writeFirst n { w with tier, version := w.version + 1 } h) t
        ∧ (h.store.flushable n → storedPair t n = { storedPair h n with
            first := ⟨{ w with tier, version := w.version + 1 + BitVec.ofNat 16 (consequentSteps h t n) }, .none⟩ })
        ∧ shedByChange h t n ∧ (∀ q, n ∈ t.pairTable.notices.get q) ∧ (s.hw.powerSound → t.powerSound))

/-- R3, R13, R162 and R175: REBUILD PAIR, its refusals, and its taking, poisoned or not: the three words are read through
the check, in the model's order (log 11, log 42), and the work that this causes is taken, none of it on an undamaged
record; then the poison is cleared, all three words are written from the arguments with version 0 and no last test, a
notice is posted, and the power unit takes the rebuilt tier and service; the rest is consequent work. From 0 the version
advances once for each change that this causes: of power or line power, and of congested by a flush, the pair's queues
being undamaged. The answer is the version as it then stands. R10 and R33: a rebuild that ends queue eligibility empties
both queues of the pair and frees their cells; one after which the pair is queue-eligible leaves the cell store alone. -/
def Obligations.RebuildPairRewritesStoredPart : Prop :=
  ∀ (p : Port) (args : List Byte) (s : State), Waits s p .rebuildPair args → s.hw.integ.faultHold = false →
    (args.length < 4 → exec (.rebuildPair p args) s = .next (answered s p .rebuildPair .missing [] s.hw))
    ∧ (∀ a b c d rest, args = a :: b :: c :: d :: rest →
        (23 < a.toNat ∨ 2 < b.toNat ∨ 3 < c.toNat ∨ d = 0 ∨ 15 < d.toNat) →
        exec (.rebuildPair p args) s = .next (answered s p .rebuildPair .range [] s.hw))
    ∧ ∀ (n : PairIx) (service : Service) (tier : Fin 4) (weight : Fin 16) (h : Hw) rest, weight ≠ 0 →
        args = BitVec.ofNat 8 n.val :: encodeService service :: BitVec.ofNat 8 tier.val :: BitVec.ofNat 8 weight.val :: rest →
        h = takeRequests requestFuel (checkPair n s.hw) →
        Follows s.hw h ∧ (s.hw.undamaged n → h = s.hw)
        ∧ ∃ t : Hw,
          exec (.rebuildPair p args) s = .next (answered s p .rebuildPair .ok (bytes2 (shownVersion t n).toNat) t)
          ∧ Follows (setStored n ⟨⟨⟨service, tier, weight, 0⟩, .none⟩, ⟨⟨.none, none⟩, .none⟩, ⟨0, .none⟩⟩
              { h with integ := { h.integ with poisoned := h.integ.poisoned.set n false } }) t
          ∧ (h.store.flushable n → storedPair t n
              = ⟨⟨⟨service, tier, weight, BitVec.ofNat 16 (consequentSteps h t n)⟩, .none⟩, ⟨⟨.none, none⟩, .none⟩, ⟨0, .none⟩⟩)
          ∧ shedByChange h t n ∧ isPoisoned t n = false ∧ (∀ q, n ∈ t.pairTable.notices.get q)
          ∧ (s.hw.powerSound → t.powerSound)

/-! ### The cell store -/

namespace Sys2Proof.Machine

/-- The store differs in these cells' owner and link words and in queue q alone. -/
def Store.sameBut (a b : Store) (q : QueueIx) (cells : List CellIx) : Prop :=
  (∀ c, c ∉ cells → a.owner c = b.owner c ∧ a.link c = b.link c)
  ∧ (∀ r, r ≠ q → a.descriptors[r] = b.descriptors[r] ∧ a.congested[r] = b.congested[r])
  ∧ a.payload = b.payload

/-- A cell has been pushed onto the free list (R26). -/
def Store.pushed (a : Store) (c : CellIx) (b : Store) : Prop :=
  b.freeHead = some c ∧ b.freeCount = a.freeCount + 1 ∧ b.owner c = ⟨.free a.freeGeneration.val, .none⟩
  ∧ (b.link c).val.next = StoreRun.nextOf a.freeHead ∧ (b.link c).upset = .none ∧ b.freeGeneration = a.freeGeneration

/-- The congested flag of queue q at a new count (R35). -/
def Store.congestedAt (s : Store) (q : QueueIx) (count : Nat) : Bool :=
  if s.congested[q] then decide (s.descriptors[q].fields.highMark / 2 < count)
  else decide (s.descriptors[q].fields.highMark ≤ count)

/-- From one run to another the congested flag of queue q has been evaluated at a new count, a change of it is reported,
and nothing else is caused outside the store (R35). -/
def StoreRun.evaluated (r x : StoreRun) (q : QueueIx) (count : Nat) : Prop :=
  x.store.congested[q] = r.store.congestedAt q count
  ∧ x.out = r.out ++ (if r.store.congestedAt q count = r.store.congested[q] then [] else [.congested q])

/-- A held cell c of this payload length, urgent or not, has been offered to queue q, which held these cells, by a pair that
is queue-eligible or not, no word that this reads being damaged (R34): from a store in which the cell is held, it joins the
queue, or it is freed, or it displaces the newest ordinary cell. -/
def Store.tookOffer (a b : Store) (q : QueueIx) (cells : List CellIx) (lead : Nat) (c : CellIx) (len : Nat)
    (urgent eligible : Bool) : Prop :=
  let limit := a.descriptors[q].fields.limit
  (eligible = true → cells.length < limit →
    b.queueIs q (if urgent then cells.take lead ++ c :: cells.drop lead else cells ++ [c]) (if urgent then lead + 1 else lead)
    ∧ (b.link c).val.len = len ∧ b.freeHead = a.freeHead ∧ b.freeCount = a.freeCount)
  ∧ ((eligible = false ∨ (limit ≤ cells.length ∧ (urgent = false ∨ lead = cells.length))) →
    b.queueIs q cells lead ∧ a.pushed c b)
  ∧ ∀ (rest : List CellIx) (t : CellIx), eligible = true → urgent = true → cells = rest ++ [t] → lead ≤ rest.length →
    limit ≤ cells.length →
    b.owner t = ⟨.free a.freeGeneration.val, .none⟩
    ∧ (limit = cells.length →
        b.queueIs q (rest.take lead ++ c :: rest.drop lead) (lead + 1) ∧ (b.link c).val.len = len
        ∧ b.freeHead = some t ∧ b.freeCount = a.freeCount + 1)
    ∧ (limit < cells.length → b.queueIs q rest lead ∧ b.freeHead = some c ∧ b.freeCount = a.freeCount + 2)

/-- The owner word of a cell reads RETIRED, or cannot be read and is thereby retired (R39). -/
def Store.isRetired (s : Store) (c : CellIx) : Prop :=
  (s.owner c).upset.outcome = .uncorrectable ∨ (s.owner c).val = .retired

/-- From one run to another, a cell's owner word that could not be read has been reported: first the uncorrectable error of
that word, to be recorded, then RETIRED, to be posted (R39). -/
def StoreRun.retirementReported (r x : StoreRun) (c : CellIx) : Prop :=
  (r.store.owner c).upset.outcome = .uncorrectable →
    (r.out ++ [.uncorrectable (265 + c.val), .event .retired]) <+: x.out

end Sys2Proof.Machine

/-- R30, R31 and R35: on a queue whose words are undamaged, APPEND puts a cell at the tail, LEAD behind the lead run, and
TAKE removes the head into its hold and reports it urgent when it came from the lead run. Cells keep their order; limit
and high mark, the other queues and the other cells do not change. Each evaluates the congested flag at the new count, and
a change of it is all that it reports. A TAKE of an empty queue, into an occupied hold, or in FAULT HOLD answers empty and
changes nothing. -/
def Obligations.QueueOperationsKeepOrder : Prop :=
  ∀ (r : StoreRun) (q : QueueIx) (cells : List CellIx) (lead : Nat), r.store.queueIs q cells lead →
    (∀ (c : CellIx) (len : Nat), c ∉ cells → r.store.usable c →
      ((r.append q c len).store.queueIs q (cells ++ [c]) lead
        ∧ (r.append q c len).store.owner c = ⟨.queue q r.store.generations[q].val, .none⟩
        ∧ ((r.append q c len).store.link c).val.len = len
        ∧ (r.append q c len).store.sameBut r.store q (c :: cells)
        ∧ (r.append q c len).store.descriptors[q].fields.limit = r.store.descriptors[q].fields.limit
        ∧ (r.append q c len).store.descriptors[q].fields.highMark = r.store.descriptors[q].fields.highMark
        ∧ r.evaluated (r.append q c len) q (cells.length + 1))
      ∧ ((r.lead q c len).store.queueIs q (cells.take lead ++ c :: cells.drop lead) (lead + 1)
        ∧ (r.lead q c len).store.owner c = ⟨.queue q r.store.generations[q].val, .none⟩
        ∧ ((r.lead q c len).store.link c).val.len = len
        ∧ (r.lead q c len).store.sameBut r.store q (c :: cells)
        ∧ (r.lead q c len).store.descriptors[q].fields.limit = r.store.descriptors[q].fields.limit
        ∧ (r.lead q c len).store.descriptors[q].fields.highMark = r.store.descriptors[q].fields.highMark
        ∧ r.evaluated (r.lead q c len) q (cells.length + 1)))
    ∧ (∀ (hold : HoldName) (c : CellIx) (rest : List CellIx), cells = c :: rest → r.store.holds.get hold = none →
      (r.take q hold false).1 = some ⟨c, decide (0 < lead), (r.store.link c).val.len⟩
      ∧ (r.take q hold false).2.store.queueIs q rest (lead - 1)
      ∧ (r.take q hold false).2.store.holds = r.store.holds.set hold (some c)
      ∧ (r.take q hold false).2.store.owner c = ⟨.held, .none⟩
      ∧ (r.take q hold false).2.store.sameBut r.store q [c]
      ∧ (r.take q hold false).2.store.descriptors[q].fields.limit = r.store.descriptors[q].fields.limit
      ∧ (r.take q hold false).2.store.descriptors[q].fields.highMark = r.store.descriptors[q].fields.highMark
      ∧ r.evaluated (r.take q hold false).2 q rest.length)
    ∧ (∀ hold : HoldName, (cells = [] ∨ (r.store.holds.get hold).isSome = true) → r.take q hold false = (none, r))
    ∧ ∀ hold : HoldName, r.take q hold true = (none, r)

/-- R27, R34 and R39. An urgent cell offered to a queue at its limit, whose words are undamaged, displaces the newest
ordinary cell, which is freed; it is itself freed when the queue holds no ordinary cell, or is above its limit still. An
allocation for an urgent cell that finds the free list empty trims the queue it is meant for and is granted the cell so
freed. A cell whose owner word reads RETIRED, or cannot be read, keeps that word: freed or popped it goes to the retired
set, and taken it enters its hold. In each of the three, when the word could not be read, the error is reported to be
recorded and RETIRED to be posted. -/
def Obligations.UrgentCellsDisplaceAndRetiredCellsLeave : Prop :=
  (∀ (r : StoreRun) (q : QueueIx) (cells : List CellIx) (lead : Nat), r.store.queueIs q cells lead →
    r.store.freeGeneration.upset = .none →
    (∀ (hold : HoldName) (c : CellIx) (len : Nat), r.store.holds.get hold = some c → c ∉ cells → r.store.usable c →
      r.store.descriptors[q].fields.limit ≤ cells.length →
      ∃ x : Store, (r.admitOffer q true len hold false true).store = x ∧ x.holds = r.store.holds.set hold none
        ∧ (lead = cells.length → x.queueIs q cells lead ∧ r.store.pushed c x)
        ∧ ∀ (rest : List CellIx) (t : CellIx), cells = rest ++ [t] → lead ≤ rest.length →
          x.owner t = ⟨.free r.store.freeGeneration.val, .none⟩
          ∧ (r.store.descriptors[q].fields.limit = cells.length →
              x.queueIs q (rest.take lead ++ c :: rest.drop lead) (lead + 1) ∧ (x.link c).val.len = len
              ∧ x.freeHead = some t ∧ x.freeCount = r.store.freeCount + 1)
          ∧ (r.store.descriptors[q].fields.limit < cells.length →
              x.queueIs q rest lead ∧ x.freeHead = some c ∧ x.freeCount = r.store.freeCount + 2))
    ∧ ∀ (hold : HoldName) (rest : List CellIx) (t : CellIx), r.store.holds.get hold = none →
      r.store.freeHead = none → r.store.freeCount = 0 → cells = rest ++ [t] → lead ≤ rest.length →
      ∃ x : StoreRun, r.allocate true q hold false = (some t, x) ∧ x.store.queueIs q rest lead
        ∧ x.store.holds = r.store.holds.set hold (some t) ∧ x.store.owner t = ⟨.held, .none⟩
        ∧ x.store.freeHead = none ∧ x.store.freeCount = 0)
  ∧ ∀ (r : StoreRun) (c : CellIx), r.store.isRetired c →
    ((r.freeCell c).1 = true ∧ (r.freeCell c).2.store.retired = c :: r.store.retired
      ∧ (r.freeCell c).2.store.freeHead = r.store.freeHead ∧ (r.freeCell c).2.store.freeCount = r.store.freeCount
      ∧ (r.freeCell c).2.store.owner c = ⟨.retired, .none⟩
      ∧ r.retirementReported (r.freeCell c).2 c)
    ∧ ∀ next : Option CellIx, (r.store.link c).upset = .none → (r.store.link c).val.next = StoreRun.nextOf next →
      (r.store.freeHead = some c →
        r.pop.1 = .again ∧ r.pop.2.store.retired = c :: r.store.retired ∧ r.pop.2.store.freeHead = next
        ∧ r.pop.2.store.freeCount = r.store.freeCount - 1 ∧ r.pop.2.store.owner c = ⟨.retired, .none⟩
        ∧ r.retirementReported r.pop.2 c)
      ∧ ∀ (q : QueueIx) (hold : HoldName) (d : Descriptor), r.store.descriptorGood q →
        d = r.store.descriptors[q].fields → r.store.holds.get hold = none → d.head = some c → 0 < d.count →
        (r.take q hold false).1 = some ⟨c, decide (0 < d.leadCount), (r.store.link c).val.len⟩
        ∧ (r.take q hold false).2.store.holds = r.store.holds.set hold (some c)
        ∧ (r.take q hold false).2.store.owner c = ⟨.retired, .none⟩
        ∧ r.retirementReported (r.take q hold false).2 c

/-- R26, R32, R33, R35 and R37. On a queue whose words are undamaged, TRIM removes the newest ordinary cell, keeps limit and
high mark and evaluates the congested flag, and changes nothing at all when every cell is urgent; FLUSH empties the queue,
keeps limit and high mark, frees every cell and answers how many, and changes nothing when the queue is empty. A
queue whose descriptor cannot be read breaks before any operation on it goes on: the descriptor is emptied with limit 64
and high mark 48, and its generation advances when that can be read. A break by a link word keeps limit and high mark.
Each posts QUEUE_BROKEN. -/
def Obligations.TrimFlushAndBreakEmptyQueues : Prop :=
  (∀ (r : StoreRun) (q : QueueIx) (cells : List CellIx) (lead : Nat), r.store.queueIs q cells lead →
    r.store.freeGeneration.upset = .none →
    (∀ (rest : List CellIx) (t : CellIx), cells = rest ++ [t] → lead ≤ rest.length →
      (r.trim q).store.queueIs q rest lead ∧ r.store.pushed t (r.trim q).store
      ∧ (r.trim q).store.descriptors[q].fields.limit = r.store.descriptors[q].fields.limit
      ∧ (r.trim q).store.descriptors[q].fields.highMark = r.store.descriptors[q].fields.highMark
      ∧ (r.trim q).store.congested[q] = r.store.congestedAt q rest.length
      ∧ (r.trim q).store.sameBut r.store q cells ∧ (r.trim q).store.holds = r.store.holds)
    ∧ (lead = cells.length → r.trim q = r)
    ∧ (cells = [] → r.flush q = (0, r))
    ∧ ((r.flush q).1 = cells.length ∧ (r.flush q).2.store.queueIs q [] 0
      ∧ (r.flush q).2.store.descriptors[q].fields.limit = r.store.descriptors[q].fields.limit
      ∧ (r.flush q).2.store.descriptors[q].fields.highMark = r.store.descriptors[q].fields.highMark
      ∧ (r.flush q).2.store.freeCount = r.store.freeCount + cells.length
      ∧ (r.flush q).2.store.freeHead = (cells.getLast?).or r.store.freeHead
      ∧ (∀ c ∈ cells, (r.flush q).2.store.owner c = ⟨.free r.store.freeGeneration.val, .none⟩)
      ∧ (r.flush q).2.store.generations = r.store.generations
      ∧ (cells ≠ [] → (r.flush q).2.store.congested[q] = r.store.congestedAt q 0)
      ∧ (r.flush q).2.store.sameBut r.store q cells ∧ (r.flush q).2.store.holds = r.store.holds))
  ∧ (∀ (r : StoreRun) (q : QueueIx),
    ((r.store.descriptors[q].upset0.outcome = .uncorrectable ∨ r.store.descriptors[q].upset1.outcome = .uncorrectable
        ∨ r.store.descriptors[q].upset2.outcome = .uncorrectable) →
      (r.openQueue q).1 = ⟨none, none, 0, 64, 48, 0, none⟩
      ∧ (r.openQueue q).2.store.descriptors[q] = ⟨⟨none, none, 0, 64, 48, 0, none⟩, .none, .none, .none⟩
      ∧ .event .queueBroken ∈ (r.openQueue q).2.out)
    ∧ ((r.breakQueue q false).store.descriptors[q] = ⟨⟨none, none, 0, r.store.descriptors[q].fields.limit,
          r.store.descriptors[q].fields.highMark, 0, none⟩, .none, .none, .none⟩
      ∧ .event .queueBroken ∈ (r.breakQueue q false).out)
    ∧ ∀ b, (r.store.generations[q].upset.outcome ≠ .uncorrectable →
        (r.breakQueue q b).store.generations[q] = ⟨r.store.generations[q].val + 1, .none⟩)
      ∧ (r.store.generations[q].upset.outcome = .uncorrectable →
        (r.breakQueue q b).store.generations[q] = r.store.generations[q]
        ∧ .uncorrectable (216 + q.val) ∈ (r.breakQueue q b).out))

/-- R44 and R45: READ QUEUE and SET QUEUE LIMITS of one queue, pair byte and direction byte first. Refusals; READ QUEUE
answers the descriptor and the congested flag; SET QUEUE LIMITS writes the values given, keeps those omitted, and evaluates
the congested flag, a change of which is the only further work; that the version step which it makes writes the first word
without reading it is the model's choice (log 10). -/
def Obligations.QueueCommandsReadAndSetDescriptor : Prop :=
  ∀ (p : Port) (args : List Byte) (s : State),
    (Waits s p .readQueue args →
      (args.length < 2 → exec (.readQueue p args) s = .next (answered s p .readQueue .missing [] s.hw))
      ∧ (∀ a b rest, args = a :: b :: rest → (23 < a.toNat ∨ 1 < b.toNat) →
          exec (.readQueue p args) s = .next (answered s p .readQueue .range [] s.hw))
      ∧ ∀ (n : PairIx) (down : Bool) (q : QueueIx) rest,
          args = BitVec.ofNat 8 n.val :: (if down then 1 else 0) :: rest → q = (if down then dnq n else upq n) →
          ∃ h : Hw, exec (.readQueue p args) s = .next (answered s p .readQueue .ok
              (let d := h.store.descriptors[q].fields
               bytesCell d.head ++ bytesCell d.tail ++ bytes2 d.count ++ bytes2 d.leadCount ++ bytes2 d.limit
                 ++ bytes2 d.highMark ++ [if h.store.congested[q] then 1 else 0]) h)
            ∧ Follows s.hw h ∧ (s.hw.store.descriptorGood q → h = s.hw))
    ∧ (Waits s p .setQueueLimits args → s.hw.integ.faultHold = false →
      ((args.length < 2 ∨ args.length = 3 ∨ args.length = 5) →
        exec (.setQueueLimits p args) s = .next (answered s p .setQueueLimits .missing [] s.hw))
      ∧ (∀ a b rest, args = a :: b :: rest → args.length ≠ 3 → args.length ≠ 5 →
          (23 < a.toNat ∨ 1 < b.toNat ∨ (∃ v, expected args 2 = some v ∧ 511 < v.toNat)
            ∨ ∃ v, expected args 4 = some v ∧ (v.toNat = 0 ∨ 511 < v.toNat)) →
          exec (.setQueueLimits p args) s = .next (answered s p .setQueueLimits .range [] s.hw))
      ∧ ∀ (n : PairIx) (down : Bool) (q : QueueIx) (d : Descriptor) (limit high : Nat) rest,
          args = BitVec.ofNat 8 n.val :: (if down then 1 else 0) :: rest → args.length ≠ 3 → args.length ≠ 5 →
          q = (if down then dnq n else upq n) → s.hw.store.descriptorGood q → d = s.hw.store.descriptors[q].fields →
          ((expected args 2 = none ∧ limit = d.limit) ∨ ∃ v, expected args 2 = some v ∧ limit = v.toNat) →
          ((expected args 4 = none ∧ high = d.highMark) ∨ ∃ v, expected args 4 = some v ∧ high = v.toNat) →
          (∀ v, expected args 2 = some v → v.toNat ≤ 511) →
          (∀ v, expected args 4 = some v → 1 ≤ v.toNat ∧ v.toNat ≤ 511) →
          ∃ (t : Hw) (flag : Bool), exec (.setQueueLimits p args) s = .next (answered s p .setQueueLimits .ok
              (bytes2 limit ++ bytes2 high ++ bytes2 d.count) t)
            ∧ flag = (if s.hw.store.congested[q] then decide (high / 2 < d.count) else decide (high ≤ d.count))
            ∧ t.store = { s.hw.store with
                descriptors := s.hw.store.descriptors.set q ⟨{ d with limit, highMark := high }, .none, .none, .none⟩
                congested := s.hw.store.congested.set q flag }
            ∧ ((flag = s.hw.store.congested[q] ∨ down = true) → t = { s.hw with store := t.store })
            ∧ (flag ≠ s.hw.store.congested[q] → down = false → t = stepRecord n { s.hw with store := t.store }))

/-- R33, R46 and R57: FLUSH QUEUE, its refusals, and its taking on two queues whose words are undamaged: each queue named
is emptied and its cells freed, the answer is their number, and the credit of a pair whose upstream queue held cells is
set to 0. A change of congested is one change of the record (R14), which writes the first word without reading it: the
model's reading (log 10). -/
def Obligations.FlushQueueEmptiesNamedQueues : Prop :=
  ∀ (p : Port) (args : List Byte) (s : State), Waits s p .flushQueue args → s.hw.integ.faultHold = false →
    (args = [] → exec (.flushQueue p args) s = .next (answered s p .flushQueue .missing [] s.hw))
    ∧ (∀ a rest, args = a :: rest → (23 < a.toNat ∨ ∃ b, rest[0]? = some b ∧ 2 < b.toNat) →
        exec (.flushQueue p args) s = .next (answered s p .flushQueue .range [] s.hw))
    ∧ ∀ (n : PairIx) (up down : Bool) (us ds : List CellIx) (lu ld : Nat) (rest : List Byte),
        args = BitVec.ofNat 8 n.val :: rest →
        ((up = true ∧ down = false ∧ rest[0]? = some 0) ∨ (up = false ∧ down = true ∧ rest[0]? = some 1)
          ∨ (up = true ∧ down = true ∧ (rest[0]? = none ∨ rest[0]? = some 2))) →
        s.hw.store.queueIs (upq n) us lu → s.hw.store.queueIs (dnq n) ds ld → (∀ c ∈ us, c ∉ ds) →
        s.hw.store.freeGeneration.upset = .none →
        ∃ t : Hw, exec (.flushQueue p args) s = .next (answered s p .flushQueue .ok
            (bytes2 ((if up then us.length else 0) + if down then ds.length else 0)) t)
          ∧ Follows s.hw t ∧ s.hw.recordsStepped t (fun m => m == n && congestedChanged s.hw t m)
          ∧ (if up then t.store.queueIs (upq n) [] 0 else t.store.queueIs (upq n) us lu)
          ∧ (if down then t.store.queueIs (dnq n) [] 0 else t.store.queueIs (dnq n) ds ld)
          ∧ t.store.freeCount
              = s.hw.store.freeCount + ((if up then us.length else 0) + if down then ds.length else 0)
          ∧ (up = true → us ≠ [] → t.sched.credit[n] = 0)

namespace Sys2Proof.Machine

/-- The owner and link words, the descriptors and the generations of a store are those of another, but for the link word of
one cell. -/
def Store.sameButLink (a b : Store) (c : CellIx) : Prop :=
  (∀ d, a.owner d = b.owner d) ∧ (∀ d, d ≠ c → a.link d = b.link d) ∧ a.descriptors = b.descriptors
  ∧ a.congested = b.congested ∧ a.generations = b.generations ∧ a.freeGeneration = b.freeGeneration
  ∧ a.freeHead = b.freeHead ∧ a.freeCount = b.freeCount

/-- The queue engine has handled the uncorrectable link word of a cell, found by the scrubber or by TABLE READ, as the cell's
owner word gives, no other word that it reads being damaged (R40): a break of the queue (R37), a break of the free list
(R38), or the link word rewritten BROKEN; the length written there is a free value (log 8). -/
def linkHandled (h t : Hw) (c : CellIx) : Prop :=
  let a := h.store
  let b := t.store
  (∀ q g, a.owner c = ⟨.queue q g, .none⟩ → a.generations[q].upset = .none →
    (a.generations[q].val = g →
      b.descriptors = a.descriptors.set q ⟨⟨none, none, 0, a.descriptors[q].fields.limit,
        a.descriptors[q].fields.highMark, 0, none⟩, .none, .none, .none⟩
      ∧ b.generations = a.generations.set q ⟨g + 1, .none⟩ ∧ b.congested[q] = a.congestedAt q 0
      ∧ (∀ d, b.owner d = a.owner d ∧ b.link d = a.link d)
      ∧ b.freeGeneration = a.freeGeneration ∧ b.freeHead = a.freeHead ∧ b.freeCount = a.freeCount
      ∧ ∀ p, (eventsOf h p).enable[(6 : Fin 8)] = true → t.flag p 6 2 = true)
    ∧ (a.generations[q].val ≠ g → b.sameButLink a c ∧ (b.link c).val.next = .broken ∧ (b.link c).upset = .none
      ∧ 1 ≤ (b.link c).val.len ∧ (b.link c).val.len ≤ 64))
  ∧ (∀ g, a.owner c = ⟨.free g, .none⟩ → a.freeGeneration.upset = .none →
    (a.freeGeneration.val = g →
      b.freeGeneration = ⟨g + 1, .none⟩ ∧ b.freeHead = none ∧ b.freeCount = 0
      ∧ (∀ d, b.owner d = a.owner d ∧ b.link d = a.link d)
      ∧ b.descriptors = a.descriptors ∧ b.congested = a.congested ∧ b.generations = a.generations
      ∧ ∀ p, (eventsOf h p).enable[(6 : Fin 8)] = true → t.flag p 6 2 = true)
    ∧ (a.freeGeneration.val ≠ g → b.sameButLink a c ∧ (b.link c).val.next = .broken ∧ (b.link c).upset = .none
      ∧ 1 ≤ (b.link c).val.len ∧ (b.link c).val.len ≤ 64))
  ∧ ((a.owner c = ⟨.held, .none⟩ ∨ a.owner c = ⟨.retired, .none⟩) →
    b.sameButLink a c ∧ (b.link c).val.next = .broken ∧ (b.link c).upset = .none
      ∧ 1 ≤ (b.link c).val.len ∧ (b.link c).val.len ≤ 64)
  ∧ ((a.owner c).upset.outcome = .uncorrectable → b.owner c = ⟨.retired, .none⟩ ∧ (b.link c).val.next = .broken
      ∧ (b.link c).upset = .none ∧ 1 ≤ (b.link c).val.len ∧ (b.link c).val.len ≤ 64)

/-- A queue has broken by a descriptor word that the scrubber or TABLE READ has found uncorrectable (R35, R37, R42): the
descriptor is empty with limit 64 and high mark 48, its generation has advanced when it can be read, and QUEUE_BROKEN is
posted. The stored parts are undamaged, so that an abort that FAULT HOLD sends breaks nothing more. A congested flag that
clears is one change of its pair's record. -/
def descriptorHandled (h t : Hw) (q : QueueIx) : Prop :=
  let g := h.store.generations[q]
  (h.pairsGood → t.store = { h.store with
    descriptors := h.store.descriptors.set q ⟨⟨none, none, 0, 64, 48, 0, none⟩, .none, .none, .none⟩
    congested := h.store.congested.set q false
    generations := if g.upset.outcome = .uncorrectable then h.store.generations
      else h.store.generations.set q ⟨g.val + 1, .none⟩ })
  ∧ (t.integ.faultHold = h.integ.faultHold → h.recordsStepped t fun m => upq m == q && h.store.congested[q])
  ∧ ∀ p, (eventsOf h p).enable[(6 : Fin 8)] = true → t.flag p 6 2 = true

/-- A cell has been retired by its owner word, which the scrubber or TABLE READ has found uncorrectable (R39): the word reads
RETIRED, the cell stays where it is, and RETIRED is posted; the stored parts are undamaged. -/
def ownerHandled (h t : Hw) (c : CellIx) : Prop :=
  (h.pairsGood → t.store = { h.store with owners := t.store.owners }
    ∧ ∀ d, t.store.owner d = if d = c then ⟨.retired, .none⟩ else h.store.owner d)
  ∧ ∀ p, (eventsOf h p).enable[(6 : Fin 8)] = true → t.flag p 6 3 = true

/-- The error of an uncorrectable word at an index outside the GENERATION area, which is not a known error of a poisoned
record or channel, has been taken (R169, R170): it makes the pending record, or, beside the record of another word, it enters
FAULT HOLD. -/
def errorTaken (h t : Hw) (i : Nat) : Prop :=
  (h.integ.pending = none → t.integ.pending = some ⟨i, h.seconds⟩ ∧ t.integ.gate = .waiting
    ∧ ∀ q, (eventsOf h q).enable[(0 : Fin 8)] = true → t.flag q 0 1 = true)
  ∧ ∀ e, h.integ.pending = some e → e.index ≠ i → h.integ.faultHold = false →
    t.integ.pending = some e ∧ t.integ.faultHold = true ∧ t.integ.holdCause = some (.second, ⟨i, h.seconds⟩)

/-- The word at index i, which has two upset bits, has been read by the scrubber or by TABLE READ, and is handled by its area
(R169): a pair's record is poisoned (R12), a queue breaks (R37), a GENERATION word enters FAULT HOLD, which frees both buses,
and is not rewritten (R42, R174), a cell is retired (R39), a link word is handled by its cell's owner word (R40), a channel is
poisoned (R127); and the error is recorded (R170). -/
def doubleTaken (h t : Hw) (i : Nat) : Prop :=
  (∀ n : PairIx, i / 3 = n.val → pairHandled h t n)
  ∧ (∀ (q : QueueIx) (w : Fin 3), i = 72 + 3 * q.val + w.val → descriptorHandled h t q)
  ∧ (216 ≤ i → i < 265 →
    (h.pairsGood → t.store = h.store)
    ∧ (h.integ.faultHold = false → (∀ e, h.integ.pending = some e → e.index ≠ i) →
      t.integ.faultHold = true ∧ t.integ.holdCause = some (.generation, ⟨i, h.seconds⟩)
      ∧ ∀ k, busRecord t k = ⟨.free, none, [], none, none, none, none⟩))
  ∧ (∀ c : CellIx, i = 265 + c.val → ownerHandled h t c)
  ∧ (∀ c : CellIx, i = 2313 + c.val → h.pairsGood → linkHandled h t c)
  ∧ (∀ (c : Fin 4) (w : Fin 3), i = 4361 + 3 * c.val + w.val →
    ∀ d, channelOf t d = if d = c then { channelOf h c with poisoned := true } else channelOf h d)
  ∧ ((i < 216 ∨ 265 ≤ i) → (∀ n : PairIx, i / 3 = n.val → isPoisoned h n = false) →
    (∀ c : Fin 4, 4361 ≤ i → (i - 4361) / 3 = c.val → (channelOf h c).poisoned = false) → errorTaken h t i)

end Sys2Proof.Machine

/-! ### The reads of whole blocks -/

/-- R47, R83, R99, R150, R165 and R177: the six READ commands without arguments answer OK with their items, and change
nothing, in FAULT HOLD as at any other time. Where a timer is shown in seconds, a part of a second is shown as log 9 says.
The count 0 and the candidate FFh of an empty sample run, FFh for a cap of none, and the order of the moves in flight are
the model's choice (log 22, log 46). -/
def Obligations.BlockReadsAnswerTheirItems : Prop :=
  ∀ (p : Port) (args : List Byte) (s : State),
    (Waits s p .readPool args → exec (.readPool p args) s = .next (answered s p .readPool .ok
      (bytes2 s.hw.store.freeCount ++ bytes2 (s.hw.store.descriptors.toList.map fun d => d.fields.count).sum
        ++ [BitVec.ofNat 8 ([s.hw.store.holds.trunkTx, s.hw.store.holds.trunkRx, s.hw.store.holds.lineIn,
              s.hw.store.holds.lineOut].countP Option.isSome)]
        ++ bytes2 s.hw.store.retired.length ++ bytes2 s.hw.store.stranded ++ [if s.hw.store.poolLow then 1 else 0]) s.hw))
    ∧ (Waits s p .readTrunk args → exec (.readTrunk p args) s = .next (answered s p .readTrunk .ok
      ([encodeDelineation s.hw.trunk.delineation, BitVec.ofNat 8 s.hw.trunk.confirmCount,
        BitVec.ofNat 8 s.hw.trunk.badRun, if s.hw.trunk.transmitEnable then 1 else 0,
        encodeLevel s.hw.sense[10].accepted, if s.hw.trunk.permitted then 1 else 0]
        ++ bytesCell s.hw.store.holds.trunkTx ++ bytesCell s.hw.store.holds.trunkRx
        ++ bytes2 s.hw.trunk.headerErrors.toNat ++ [s.hw.trunk.lockLosses, s.hw.trunk.doneTimeouts]) s.hw))
    ∧ (Waits s p .readRelays args → exec (.readRelays p args) s = .next (answered s p .readRelays .ok
      ((s.hw.relay.pairs.toList.flatMap fun r =>
          [encodePos r.pos, if r.moving then 1 else 0, encodePos r.target, encodeGuard r.guard])
        ++ [BitVec.ofNat 8 (s.hw.relay.guardSection ++ s.hw.relay.normalSection).length]
        ++ ((s.hw.relay.guardSection ++ s.hw.relay.normalSection).flatMap fun e =>
          [BitVec.ofNat 8 e.pair.val, encodePos e.target, if e.target = .isolated then 0 else 1])
        ++ [BitVec.ofNat 8 (s.hw.relay.slots.toList.filterMap id).length]
        ++ ((s.hw.relay.slots.toList.filterMap id).flatMap fun m =>
          [BitVec.ofNat 8 m.pair.val, encodePos m.target, BitVec.ofNat 8 m.remaining])
        ++ ((List.finRange 4).flatMap fun b => [encodeLevel s.hw.relay.surgeLevels[b],
            BitVec.ofNat 8 (secondsShown (timerMs s.hw.relay.guardTimers[b]))])
        ++ [BitVec.ofNat 8 s.hw.relay.settleTime, BitVec.ofNat 8 s.hw.relay.guardTime]) s.hw))
    ∧ (Waits s p .readSense args → exec (.readSense p args) s = .next (answered s p .readSense .ok
      (s.hw.sense.toList.flatMap fun x =>
        [encodeLevel x.accepted, match x.lastSample with | none => 0xFF | some l => if l then 1 else 0]
          ++ (match x.run with
            | none => [0xFF, 0]
            | some r => [if r.level then 1 else 0, if r.second then 2 else 1])
          ++ [if x.filter then 1 else 0, encodePeriod x.period, encodeTrigger x.trigger]) s.hw))
    ∧ (Waits s p .readPower args → exec (.readPower p args) s = .next (answered s p .readPower .ok
      ([encodeMode s.hw.power.mode] ++ bytes4 s.hw.power.modeSince.toNat
        ++ [BitVec.ofNat 8 s.hw.power.floor, match cap s.hw with | none => 0xFF | some c => BitVec.ofNat 8 c,
            encodeLevel s.hw.power.mainsLevel, encodeLevel s.hw.power.lowLevel, encodeLevel s.hw.power.criticalLevel,
            encodeLevel s.hw.power.thermalLevel]
        ++ bytes3 (timerMs s.hw.power.graceTimer) ++ bytes3 (timerMs s.hw.power.restoreTimer)
        ++ bytes2 (timerMs s.hw.power.stepTimer)
        ++ [BitVec.ofNat 8 s.hw.power.graceTime, BitVec.ofNat 8 s.hw.power.restoreDelay,
            BitVec.ofNat 8 s.hw.power.stepInterval]
        ++ (s.hw.power.pairs.toList.flatMap fun x =>
            [if x.powered then 1 else 0, if x.line then 1 else 0, if x.frozen then 1 else 0])
        ++ [BitVec.ofNat 8 (s.hw.power.pairs.toList.countP PowerPair.powered),
            BitVec.ofNat 8 (s.hw.power.pairs.toList.countP PowerPair.line)]) s.hw))
    ∧ (Waits s p .readIntegrity args → exec (.readIntegrity p args) s = .next (answered s p .readIntegrity .ok
      ([s.hw.integ.corrections] ++ errorBytes s.hw.integ.pending
        ++ [encodeGate s.hw.integ.gate, if s.hw.integ.faultHold then 1 else 0,
            encodeHoldKind (s.hw.integ.holdCause.map Prod.fst)]
        ++ errorBytes (s.hw.integ.holdCause.map Prod.snd)
        ++ [BitVec.ofNat 8 s.hw.integ.scrubInterval] ++ bytes2 s.hw.integ.cursor ++ bytes2 s.hw.integ.passCount.toNat)
      s.hw))

/-! ### The trunk link -/

namespace Sys2Proof.Machine

/-- Carry-less multiplication of a 16-bit quotient by the generator x^8+x^5+x^4+1 (R71). -/
def timesGenerator (q : BitVec 16) : BitVec 24 :=
  (List.range 16).foldl (fun r i => if q.getLsbD i then r ^^^ (0x131#24 <<< i) else r) 0

/-- What follows an event's own work: its requests are taken, and the queues emptied are reported (R2, R57). -/
def afterWork (before h : Hw) : Hw := reportEmptied before (takeRequests requestFuel h)

/-- The trunk interface back in SEARCH with a window: the receive state at its full-reset values, permission ended (R74,
R75, R78, R79). -/
def Trunk.searching (t : Trunk) (window : List Byte) : Trunk :=
  { t with
    delineation := .search, window := window, position := 0, headerBytes := [], current := none, confirmCount := 0
    badRun := 0, silence := none, permitted := false }

/-- The trunk interface after the first or the second byte of a header in CONFIRM or LOCKED (R74, R75, R78). -/
def Trunk.headerByteHeld (t : Trunk) (b : Byte) : Trunk :=
  { t with position := t.position + 1, headerBytes := t.headerBytes ++ [b], silence := some 100 }

end Sys2Proof.Machine

/-- R71: the header check is the remainder of the division of the first two header bytes by the generator; a header is
good exactly when its check agrees, its kind is 0, 1 or 7 and its length lies in 1 to 64, whatever its tag; a header sent
is composed so. The header of the spec's example is 28h, 40h, D6h. -/
def Obligations.HeaderIsGoodByItsCheck : Prop :=
  (∀ b0 b1 : Byte, ∃ q : BitVec 16, timesGenerator q = b0 ++ b1 ++ headerCheck b0 b1)
  ∧ (∀ b0 b1 b2 : Byte, (∃ d, readHeader [b0, b1, b2] = some d) ↔
      b2 = headerCheck b0 b1 ∧ (b0.toNat % 8 = 0 ∨ b0.toNat % 8 = 1 ∨ b0.toNat % 8 = 7)
        ∧ 1 ≤ b1.toNat ∧ b1.toNat ≤ 64)
  ∧ (∀ (b0 b1 b2 : Byte) (d : Header), readHeader [b0, b1, b2] = some d →
      d.tag.val = b0.toNat / 8 ∧ d.length = b1.toNat
      ∧ (d.kind = .ordinary ↔ b0.toNat % 8 = 0) ∧ (d.kind = .urgent ↔ b0.toNat % 8 = 1))
  ∧ (∀ (n : PairIx) (urgent : Bool) (len : Nat), 1 ≤ len → len ≤ 64 →
      readHeader (headerBytes n urgent len)
        = some ⟨⟨n.val, by omega⟩, if urgent then .urgent else .ordinary, len⟩)
  ∧ headerBytes 5 false 64 = [0x28, 0x40, 0xD6]

/-- R73, R74, R79 and R80. A byte in SEARCH slides the window, and a good header in it takes the state to CONFIRM. The first
and the second byte of a header in CONFIRM are held, and nothing but the position and the silence timer changes. The third
byte: a bad header returns the state to SEARCH with its last two bytes in the window; a good one raises the confirm count,
and at 3 the state is LOCKED, LOCK_GAINED is posted and permission is evaluated; with TREADY asserted a permission gained
makes an opportunity. The current cell and the position in SEARCH are the model's choice (log 41, log 45). -/
def Obligations.AlignmentIsSearchedAndConfirmed : Prop :=
  (∀ (b : Byte) (tready : Bool) (s : State) (w : List Byte), s.hw.requests = [] → s.hw.trunk.delineation = .search →
    s.hw.trunk.window.length ≤ 3 →
    w = (if s.hw.trunk.window.length = 3 then s.hw.trunk.window.tail else s.hw.trunk.window) ++ [b] →
    (readHeader w = none →
      exec (.byteArrival b tready) s = .next { s with hw := { s.hw with trunk := { s.hw.trunk with window := w } } })
    ∧ ∀ d, readHeader w = some d →
      exec (.byteArrival b tready) s = .next { s with hw := { s.hw with trunk := { s.hw.trunk with
        delineation := .confirm, window := [], position := 3, headerBytes := [], current := some ⟨d, false⟩
        confirmCount := 0, silence := some 100 } } })
  ∧ (∀ (b : Byte) (tready : Bool) (s : State), s.hw.requests = [] → s.hw.trunk.delineation = .confirm →
    s.hw.trunk.position < 2 → s.hw.trunk.headerBytes.length = s.hw.trunk.position →
    exec (.byteArrival b tready) s = .next { s with hw := { s.hw with trunk := s.hw.trunk.headerByteHeld b } })
  ∧ (∀ (b0 b1 b : Byte) (tready : Bool) (s : State), s.hw.requests = [] → s.hw.trunk.delineation = .confirm →
    s.hw.trunk.position = 2 → s.hw.trunk.headerBytes = [b0, b1] → s.hw.trunk.permitted = false →
    (readHeader [b0, b1, b] = none →
      exec (.byteArrival b tready) s = .next { s with hw := { s.hw with trunk := s.hw.trunk.searching [b1, b] } })
    ∧ ∀ d, readHeader [b0, b1, b] = some d →
      (s.hw.trunk.confirmCount + 1 < 3 →
        exec (.byteArrival b tready) s = .next { s with hw := { s.hw with trunk := { s.hw.trunk with
          position := 3, headerBytes := [], current := some ⟨d, false⟩, confirmCount := s.hw.trunk.confirmCount + 1
          silence := some 100 } } })
      ∧ (3 ≤ s.hw.trunk.confirmCount + 1 → ∃ h : Hw,
        h = { (post .lockGained s.hw) with trunk := { s.hw.trunk with
          delineation := .locked, position := 3, headerBytes := [], current := some ⟨d, false⟩
          confirmCount := s.hw.trunk.confirmCount + 1, badRun := 0, silence := some 100
          permitted := s.hw.trunk.transmitEnable && s.hw.sense[10].accepted != .high && !s.hw.integ.faultHold } }
        ∧ ((h.trunk.permitted = false ∨ tready = false) → exec (.byteArrival b tready) s = .next { s with hw := h })
        ∧ (h.trunk.permitted = true → tready = true →
            exec (.byteArrival b tready) s = .next { s with hw := afterWork s.hw (opportunity h) })))

/-- R68, R75, R76 and R79: a header in LOCKED. Its first and second byte are held, and nothing but the position and the
silence timer changes. At the third a bad header raises the header error count and the bad
run; the fifth in a row loses lock, LOCK_LOST is posted and permission ends. A good header sets the run to 0; one that is
IDLE or names no pair, one in FAULT HOLD, and an ordinary one with at most 64 free cells keep no payload; one granted the
head of the free list keeps it, with the header's length in its link word. The current cell after a bad header, and the
position in SEARCH, are the model's choice (log 41, log 45); that the length stands in the link word from the grant on is its
reading (log 36). -/
def Obligations.LockedHeaderAllocatesOrCounts : Prop :=
  (∀ (b : Byte) (tready : Bool) (s : State), s.hw.requests = [] → s.hw.trunk.delineation = .locked →
    s.hw.trunk.position < 2 → s.hw.trunk.headerBytes.length = s.hw.trunk.position →
    exec (.byteArrival b tready) s = .next { s with hw := { s.hw with trunk := s.hw.trunk.headerByteHeld b } })
  ∧ ∀ (b0 b1 b : Byte) (tready : Bool) (s : State), s.hw.requests = [] → s.hw.trunk.delineation = .locked →
    s.hw.trunk.position = 2 → s.hw.trunk.headerBytes = [b0, b1] →
    (readHeader [b0, b1, b] = none →
      (s.hw.trunk.badRun + 1 < 5 → exec (.byteArrival b tready) s = .next { s with hw := { s.hw with
        trunk := { s.hw.trunk with
          position := 3, headerBytes := [], current := none, headerErrors := s.hw.trunk.headerErrors + 1
          badRun := s.hw.trunk.badRun + 1, silence := some 100 } } })
      ∧ (5 ≤ s.hw.trunk.badRun + 1 → exec (.byteArrival b tready) s = .next { s with hw := { (post .lockLost s.hw) with
        trunk := { s.hw.trunk.searching [b1, b] with
          headerErrors := s.hw.trunk.headerErrors + 1, lockLosses := raised s.hw.trunk.lockLosses } } }))
    ∧ ∀ d, readHeader [b0, b1, b] = some d →
      ((d.kind = .idle ∨ 24 ≤ d.tag.val ∨ s.hw.integ.faultHold = true
          ∨ s.hw.store.holds.trunkRx.isSome = true ∨ (d.kind = .ordinary ∧ s.hw.store.freeCount ≤ 64)) →
        exec (.byteArrival b tready) s = .next { s with hw := { s.hw with trunk := { s.hw.trunk with
          position := 3, headerBytes := [], current := some ⟨d, false⟩, badRun := 0, silence := some 100 } } })
      ∧ ∀ (c : CellIx) (next : Option CellIx), d.kind ≠ .idle → d.tag.val < 24 → s.hw.integ.faultHold = false →
        s.hw.store.holds.trunkRx = none → (if d.kind = .urgent then 0 else 64) < s.hw.store.freeCount →
        s.hw.store.freeHead = some c → s.hw.store.usable c → (s.hw.store.link c).upset = .none →
        (s.hw.store.link c).val.next = StoreRun.nextOf next →
        ∃ t : Hw, exec (.byteArrival b tready) s = .next { s with hw := t } ∧ Follows s.hw t
          ∧ t.trunk = { s.hw.trunk with
              position := 3, headerBytes := [], current := some ⟨d, true⟩, badRun := 0, silence := some 100 }
          ∧ t.store.holds = { s.hw.store.holds with trunkRx := some c } ∧ t.store.freeHead = next
          ∧ t.store.freeCount = s.hw.store.freeCount - 1 ∧ t.store.owner c = ⟨.held, .none⟩
          ∧ (t.store.link c).val.len = d.length ∧ t.store.descriptors = s.hw.store.descriptors
          ∧ (∀ o, o ≠ c → t.store.owner o = s.hw.store.owner o ∧ t.store.link o = s.hw.store.link o)

/-- R69, R76 and R77: payload bytes in CONFIRM or LOCKED. A kept byte is written at its place in the slot of the cell held,
and no other byte of memory changes; one that is not kept only advances the position. At the 67th byte the cell held is
offered: it joins its queue, an urgent cell behind the lead run, when its pair is queue-eligible and the queue below its
limit; at the limit an urgent cell displaces the newest ordinary one; and it is freed when it is refused, as it is in FAULT
HOLD. That the header stays the current cell after the cell end is the model's choice (log 41). -/
def Obligations.PayloadByteIsKeptAndCellIsOffered : Prop :=
  ∀ (b : Byte) (tready : Bool) (s : State), s.hw.requests = [] → s.hw.trunk.delineation ≠ .search →
    3 ≤ s.hw.trunk.position → s.hw.trunk.position ≤ 66 →
    ((∀ d, s.hw.trunk.current ≠ some ⟨d, true⟩) →
      exec (.byteArrival b tready) s = .next { s with hw := { s.hw with trunk := { s.hw.trunk with
        position := (s.hw.trunk.position + 1) % 67, silence := some 100 } } })
    ∧ ∀ (d : Header) (c : CellIx) (h : Hw), s.hw.trunk.current = some ⟨d, true⟩ → s.hw.store.holds.trunkRx = some c →
      h = { s.hw with store := s.hw.store.setPayloadByte c (s.hw.trunk.position - 3) b } →
      (∀ (o : CellIx) (i : Nat), i < 64 → h.store.payloadByte o i
        = if o = c ∧ i = s.hw.trunk.position - 3 then b else s.hw.store.payloadByte o i)
      ∧ (s.hw.trunk.position < 66 →
        exec (.byteArrival b tready) s = .next { s with hw := { h with trunk := { s.hw.trunk with
          position := s.hw.trunk.position + 1, silence := some 100 } } })
      ∧ ∀ (n : PairIx) (cells : List CellIx) (lead : Nat), s.hw.trunk.position = 66 → d.tag.val = n.val →
        s.hw.store.usable c → s.hw.store.freeGeneration.upset = .none → s.hw.store.queueIs (dnq n) cells lead → c ∉ cells →
        ∃ t : Hw, exec (.byteArrival b tready) s = .next { s with hw := t } ∧ Follows h t
          ∧ t.pairTable = s.hw.pairTable
          ∧ t.trunk = { s.hw.trunk with position := 0, current := some ⟨d, false⟩, silence := some 100 }
          ∧ t.store.holds = { s.hw.store.holds with trunkRx := none }
          ∧ s.hw.store.tookOffer t.store (dnq n) cells lead c d.length (d.kind == .urgent)
              (queueEligible s.hw n && !s.hw.integ.faultHold)

/-- R77, R78 and R81. The expiry of the silence timer gives up the alignment: SEARCH with an empty window, the lock loss
count and LOCK_LOST when the state was LOCKED, permission ended, and a held receive cell freed. TDONE releases the cell in
the trunk transmit hold, freed, and stops the done timer; it is ignored when the hold is empty. The expiry of the done
timer does the same, and raises the done timeout count and posts DONE_TIMEOUT. A stopped timer does not expire. The
current cell and the position in SEARCH are the model's choice (log 41, log 45). -/
def Obligations.TrunkTimersEndReceptionAndSending : Prop :=
  (∀ s : State, s.hw.requests = [] →
    (s.hw.trunk.silence = none → exec .silenceTimerExpiry s = .next s)
    ∧ (s.hw.trunk.silence.isSome = true → ∀ h : Hw,
      h = (if s.hw.trunk.delineation = .locked then
          { (post .lockLost s.hw) with trunk := { s.hw.trunk.searching [] with
              lockLosses := raised s.hw.trunk.lockLosses } }
        else { s.hw with trunk := s.hw.trunk.searching [] }) →
      (s.hw.store.holds.trunkRx = none → exec .silenceTimerExpiry s = .next { s with hw := h })
      ∧ ∀ c, s.hw.store.holds.trunkRx = some c → s.hw.store.usable c → s.hw.store.freeGeneration.upset = .none →
        ∃ t : Hw, exec .silenceTimerExpiry s = .next { s with hw := t } ∧ t.trunk = h.trunk
          ∧ t.store.holds = { s.hw.store.holds with trunkRx := none } ∧ s.hw.store.pushed c t.store
          ∧ t.store.descriptors = s.hw.store.descriptors
          ∧ (s.hw.trunk.delineation = .locked → ∀ p, (eventsOf s.hw p).enable[(3 : Fin 8)] = true → t.flag p 3 1 = true)))
  ∧ (∀ s : State, s.hw.requests = [] →
    (s.hw.store.holds.trunkTx = none → exec .transmitDone s = .next s)
    ∧ (s.hw.trunk.doneTimer = none → exec .doneTimerExpiry s = .next s)
    ∧ ∀ c, s.hw.store.holds.trunkTx = some c → s.hw.store.usable c → s.hw.store.freeGeneration.upset = .none →
      (∃ t : Hw, exec .transmitDone s = .next { s with hw := t }
        ∧ t.trunk = { s.hw.trunk with sending := none, doneTimer := none }
        ∧ t.store.holds = { s.hw.store.holds with trunkTx := none } ∧ s.hw.store.pushed c t.store
        ∧ t.store.descriptors = s.hw.store.descriptors ∧ Follows s.hw t)
      ∧ (s.hw.trunk.doneTimer.isSome = true →
        ∃ t : Hw, exec .doneTimerExpiry s = .next { s with hw := t }
          ∧ t.trunk = { s.hw.trunk with
              sending := none, doneTimer := none, doneTimeouts := raised s.hw.trunk.doneTimeouts }
          ∧ t.store.holds = { s.hw.store.holds with trunkTx := none } ∧ s.hw.store.pushed c t.store
          ∧ t.store.descriptors = s.hw.store.descriptors ∧ Follows s.hw t
          ∧ ∀ p, (eventsOf s.hw p).enable[(3 : Fin 8)] = true → t.flag p 3 2 = true))

namespace Sys2Proof.Machine

/-- The trunk interface after a SET TRUNK with resync in CONFIRM or LOCKED (R78, R82): transmit enable first, then the return
to SEARCH, which ends permission, then the clearing of the counts. -/
def Trunk.resynced (u : Trunk) (enable clear : Bool) : Trunk :=
  { u.searching [] with
    transmitEnable := enable
    headerErrors := if clear then 0 else u.headerErrors
    lockLosses := if clear then 0 else if u.delineation = .locked then raised u.lockLosses else u.lockLosses
    doneTimeouts := if clear then 0 else u.doneTimeouts }

end Sys2Proof.Machine

/-- R77, R78 and R82: SET TRUNK, its refusals, and its taking: transmit enable, resync, clear counts and permission in that
order, with an opportunity when permission is gained while TREADY is asserted. A resync in CONFIRM or LOCKED frees a held
receive cell. The current cell and the position in SEARCH are the model's choice (log 41, log 45). -/
def Obligations.SetTrunkApplies : Prop :=
  ∀ (p : Port) (args : List Byte) (tready : Bool) (s : State), Waits s p .setTrunk args →
    s.hw.integ.faultHold = false →
    (((∃ b, args[0]? = some b ∧ 1 < b.toNat) ∨ (∃ b, args[1]? = some b ∧ 1 < b.toNat)
        ∨ ∃ b, args[2]? = some b ∧ 1 < b.toNat) →
      exec (.setTrunk p args tready) s = .next (answered s p .setTrunk .range [] s.hw))
    ∧ (∀ (enable sync clear : Bool) (h1 h2 h3 : Hw),
      ((args[0]? = none ∧ enable = s.hw.trunk.transmitEnable) ∨ args[0]? = some (if enable then 1 else 0)) →
      ((args[1]? = none ∧ sync = false) ∨ args[1]? = some (if sync then 1 else 0)) →
      ((args[2]? = none ∧ clear = false) ∨ args[2]? = some (if clear then 1 else 0)) →
      (sync = true → s.hw.store.holds.trunkRx = none ∨ s.hw.trunk.delineation = .search) →
      h1 = { s.hw with trunk := { s.hw.trunk with transmitEnable := enable } } →
      h2 = (if sync = false then h1
        else match s.hw.trunk.delineation with
          | .search => { h1 with trunk := { h1.trunk with window := [] } }
          | .confirm => { h1 with trunk := h1.trunk.searching [] }
          | .locked => { (post .lockLost h1) with trunk := { h1.trunk.searching [] with
              lockLosses := raised h1.trunk.lockLosses } }) →
      h3 = (if clear then
          { h2 with trunk := { h2.trunk with headerErrors := 0, lockLosses := 0, doneTimeouts := 0 } } else h2) →
      ∃ (t h : Hw), h = { h3 with trunk := { h3.trunk with permitted := mayTransmit h3 } }
        ∧ t = (if h3.trunk.permitted = false ∧ mayTransmit h3 = true ∧ tready = true
            then afterWork s.hw (opportunity h) else h)
        ∧ exec (.setTrunk p args tready) s = .next (answered s p .setTrunk .ok
            [if t.trunk.transmitEnable then 1 else 0, encodeDelineation t.trunk.delineation,
             if t.trunk.permitted then 1 else 0] t))
    ∧ ∀ (enable clear : Bool) (c : CellIx),
      ((args[0]? = none ∧ enable = s.hw.trunk.transmitEnable) ∨ args[0]? = some (if enable then 1 else 0)) →
      args[1]? = some 1 → ((args[2]? = none ∧ clear = false) ∨ args[2]? = some (if clear then 1 else 0)) →
      s.hw.trunk.delineation ≠ .search → s.hw.store.holds.trunkRx = some c → s.hw.store.usable c →
      s.hw.store.freeGeneration.upset = .none →
      ∃ t : Hw, exec (.setTrunk p args tready) s
          = .next (answered s p .setTrunk .ok [if enable then 1 else 0, 0, 0] t)
        ∧ t.trunk = s.hw.trunk.resynced enable clear ∧ t.pairTable = s.hw.pairTable
        ∧ t.store.holds = { s.hw.store.holds with trunkRx := none } ∧ s.hw.store.pushed c t.store
        ∧ t.store.descriptors = s.hw.store.descriptors ∧ Follows { s.hw with trunk := t.trunk } t
        ∧ (s.hw.trunk.delineation = .locked → ∀ q, (eventsOf s.hw q).enable[(3 : Fin 8)] = true → t.flag q 3 1 = true)

/-! ### Sharing the uplink -/

namespace Sys2Proof.Machine

/-- The words the share scheduler reads of the pairs in its eligible set are undamaged, and none of them is poisoned. -/
def Hw.schedulerGood (h : Hw) : Prop :=
  ∀ n : PairIx, h.sched.eligible[n] = true →
    h.store.descriptorGood (upq n) ∧ isPoisoned h n = false ∧ (storedPair h n).first.upset = .none

/-- What the urgent step looks for (R53). -/
def Hw.hasUrgent (h : Hw) (n : PairIx) : Prop :=
  h.sched.eligible[n] = true ∧ 0 < h.store.descriptors[upq n].fields.leadCount

/-- What the lifeline step looks for (R54). -/
def Hw.hasLifeline (h : Hw) (n : PairIx) : Prop :=
  h.sched.eligible[n] = true ∧ (storedPair h n).first.val.tier = 0 ∧ 0 < h.store.descriptors[upq n].fields.count

/-- A candidate of the credit round (R55). -/
def Hw.hasCredit (h : Hw) (n : PairIx) : Prop :=
  h.sched.eligible[n] = true ∧ (storedPair h n).first.val.tier ≠ 0 ∧ 0 < h.store.descriptors[upq n].fields.count

/-- The first pair with a property in pair order with wrap, from a pointer on; the pairs passed over (R53). -/
def firstFrom (ptr : PairIx) (P : PairIx → Prop) (passed : List PairIx) (n : PairIx) : Prop :=
  ∃ rest, pairsFrom ptr = passed ++ n :: rest ∧ (∀ m ∈ passed, ¬ P m) ∧ P n

/-- The cell at the head of a pair's upstream queue has been taken into the trunk transmit hold, and its transmission has
begun: the header of the pair, kind and length, then its payload bytes, then zeros, 67 bytes in all (R31, R81). A change of
congested is one change of the record (R14, R35). -/
def Hw.sends (h t : Hw) (n : PairIx) (urgent : Bool) (c : CellIx) (rest : List CellIx) (lead : Nat) : Prop :=
  let len := (h.store.link c).val.len
  t.trunk = { h.trunk with
    sending := some ⟨n, urgent, len, (headerBytes n urgent len ++ (List.range len).map (fun i => h.store.payloadByte c i)
      ++ List.replicate 64 0).take 67⟩
    doneTimer := some 50 }
  ∧ t.store.holds = { h.store.holds with trunkTx := some c } ∧ t.store.owner c = ⟨.held, .none⟩
  ∧ t.store.queueIs (upq n) rest (lead - 1) ∧ Follows h t
  ∧ h.recordsStepped t (fun m => m == n && congestedChanged h t m)

end Sys2Proof.Machine

/-- R51 to R58 and R80: a READY is dropped while transmission is not permitted, and passes unused when no step finds a
pair, every credit then 0. Otherwise the first step that finds a pair sends the head of its upstream queue: the urgent
step first, then the lifeline step, then the credit round, each from its own pointer on; the urgent and the lifeline
pointer go on behind the pair served; the credit round sets the credit of each pair passed over to 0, refills a candidate
without credit with its weight, charges one credit, and moves its pointer on when the credit or the queue is used up. While
the trunk transmit hold is occupied the TAKE answers empty (R58): the cell being sent is not disturbed, and nothing changes
but what the credit round's search did, whose pointer and refill stand; no credit is charged. -/
def Obligations.OpportunityServesInOrder : Prop :=
  ∀ s : State, s.hw.requests = [] →
    (s.hw.trunk.permitted = false → exec .treadyRise s = .next s)
    ∧ (s.hw.trunk.permitted = true → s.hw.integ.faultHold = false → s.hw.schedulerGood →
        (s.hw.store.holds.trunkTx).isSome = true →
      ((∃ m, s.hw.hasUrgent m) → exec .treadyRise s = .next s)
      ∧ ((∀ m, ¬ s.hw.hasUrgent m) →
        ((∃ m, s.hw.hasLifeline m) → exec .treadyRise s = .next s)
        ∧ ((∀ m, ¬ s.hw.hasLifeline m) →
          (∀ (n : PairIx) (passed : List PairIx), firstFrom s.hw.sched.roundPtr s.hw.hasCredit passed n →
            ∃ credit : Vector (Fin 16) 24, exec .treadyRise s = .next { s with hw := { s.hw with
                sched := { s.hw.sched with roundPtr := n, credit } } }
              ∧ ∀ m : PairIx, credit[m] = if m = n ∧ s.hw.sched.credit[n] = 0
                  then (storedPair s.hw n).first.val.weight
                  else if m ∈ passed then 0 else s.hw.sched.credit[m])
          ∧ ((∀ m, ¬ s.hw.hasCredit m) → exec .treadyRise s = .next { s with hw := { s.hw with
              sched := { s.hw.sched with credit := Vector.replicate 24 0 } } }))))
    ∧ (s.hw.trunk.permitted = true → s.hw.integ.faultHold = false → s.hw.store.holds.trunkTx = none →
        s.hw.schedulerGood →
      (∀ (n : PairIx) (passed : List PairIx) (c : CellIx) (rest : List CellIx) (lead : Nat),
        firstFrom s.hw.sched.urgentPtr s.hw.hasUrgent passed n → s.hw.store.queueIs (upq n) (c :: rest) lead →
        ∃ t : Hw, exec .treadyRise s = .next { s with hw := t } ∧ s.hw.sends t n true c rest lead
          ∧ t.sched = { s.hw.sched with
              urgentPtr := nextPair n
              credit := if rest = [] then s.hw.sched.credit.set n 0 else s.hw.sched.credit })
      ∧ ((∀ m, ¬ s.hw.hasUrgent m) →
        (∀ (n : PairIx) (passed : List PairIx) (c : CellIx) (rest : List CellIx) (lead : Nat),
          firstFrom s.hw.sched.tier0Ptr s.hw.hasLifeline passed n → s.hw.store.queueIs (upq n) (c :: rest) lead →
          ∃ t : Hw, exec .treadyRise s = .next { s with hw := t } ∧ s.hw.sends t n false c rest lead
            ∧ t.sched = { s.hw.sched with
                tier0Ptr := nextPair n
                credit := if rest = [] then s.hw.sched.credit.set n 0 else s.hw.sched.credit })
        ∧ ((∀ m, ¬ s.hw.hasLifeline m) →
          (∀ (n : PairIx) (passed : List PairIx) (c : CellIx) (rest : List CellIx) (lead : Nat) (credit : Fin 16),
            firstFrom s.hw.sched.roundPtr s.hw.hasCredit passed n → s.hw.store.queueIs (upq n) (c :: rest) lead →
            credit.val = (if s.hw.sched.credit[n] = 0 then (storedPair s.hw n).first.val.weight
              else s.hw.sched.credit[n]).val - 1 →
            ∃ t : Hw, exec .treadyRise s = .next { s with hw := t } ∧ s.hw.sends t n false c rest lead
              ∧ t.sched = { s.hw.sched with credit := t.sched.credit, roundPtr := t.sched.roundPtr }
              ∧ t.sched.roundPtr = (if credit = 0 ∨ rest = [] then nextPair n else n)
              ∧ (∀ m : PairIx, t.sched.credit[m] = if m = n then (if rest = [] then 0 else credit)
                  else if m ∈ passed then 0 else s.hw.sched.credit[m]))
          ∧ ((∀ m, ¬ s.hw.hasCredit m) → exec .treadyRise s = .next { s with hw := { s.hw with
              sched := { s.hw.sched with credit := Vector.replicate 24 0 } } }))))

namespace Sys2Proof.Machine

/-- What the card of pair n receives of the cell c at the head of its downstream queue, whose lead count is given: the kind,
the length, and that many payload bytes (R62). -/
def Hw.deliveryOf (h : Hw) (n : PairIx) (c : CellIx) (lead : Nat) : Delivery :=
  ⟨n, if 0 < lead then 1 else 0, BitVec.ofNat 8 (h.store.link c).val.len,
    (List.range (h.store.link c).val.len).map fun i => h.store.payloadByte c i⟩

/-- An offer whose kind and length are in order, urgent or ordinary (R63). -/
def offerGood (o : CardOffer) (urgent : Bool) : Prop :=
  o.kind = (if urgent then 1 else 0) ∧ 1 ≤ o.length.toNat ∧ o.length.toNat ≤ 64

/-- An offer that names no kind, or no length of 1 to 64 (R63). -/
def offerMalformed (o : CardOffer) : Prop := 1 < o.kind.toNat ∨ o.length.toNat = 0 ∨ 64 < o.length.toNat

/-- The payload of an offer stands in the slot of cell c, and every other byte of the payload as before (R63). -/
def Store.loaded (a b : Store) (c : CellIx) (o : CardOffer) : Prop :=
  ∀ (d : CellIx) (i : Nat), i < 64 → b.payloadByte d i
    = if d = c ∧ i < o.length.toNat then o.payload.toList.getD i 0 else a.payloadByte d i

end Sys2Proof.Machine

/-- R34 and R60 to R64 and R67: an expiry of the poll timer polls the first eligible pair from the poll pointer on, and none
when no pair is eligible. A card that shows neither signal moves no cell. With LRDY the head of the pair's downstream queue is
sent to the card, its kind first, then freed. With LOFR the activity takes the seconds counter, whatever becomes of the
offer: a malformed offer, or an ordinary one with at most 64 free cells, changes nothing more; an offer that is granted
the head of the free list has its bytes in the payload slot and is offered to the pair's upstream queue, which takes it,
displaces a cell for it or refuses it. A card that shows both has the delivery first, then the pickup, which is granted the
cell just delivered; with nothing to deliver the poll is one of LOFR alone. A change of congested is one change of the
record, which writes the first word without reading it: the model's reading (log 10). Where a displacement may change
congested twice, at a high mark of 1 or 2 (log 43), nothing is said of the record. -/
def Obligations.PollExchangesCells : Prop :=
  ∀ (card : CardSignals) (s : State), s.hw.requests = [] →
    ((∀ n : PairIx, s.hw.line.eligible[n] = false) → exec (.pollTimerExpiry card) s = .next s)
    ∧ ∀ (n : PairIx) (passed : List PairIx) (h : Hw),
      firstFrom s.hw.line.pollPtr (fun m => s.hw.line.eligible[m] = true) passed n →
      h = { s.hw with line := { s.hw.line with pollPtr := nextPair n, slot := some n } } →
      (card = ⟨false, none⟩ → exec (.pollTimerExpiry card) s = .next { s with hw := h })
      ∧ (card = ⟨true, none⟩ → s.hw.store.holds.lineOut = none → s.hw.integ.faultHold = false →
        (∀ lead, s.hw.store.queueIs (dnq n) [] lead → exec (.pollTimerExpiry card) s = .next { s with hw := h })
        ∧ ∀ (c : CellIx) (rest : List CellIx) (lead : Nat), s.hw.store.queueIs (dnq n) (c :: rest) lead →
          s.hw.store.freeGeneration.upset = .none →
          ∃ t : Hw, exec (.pollTimerExpiry card) s = .next { s with hw := t }
            ∧ t.line = { h.line with delivered := some (s.hw.deliveryOf n c lead) }
            ∧ t.store.queueIs (dnq n) rest (lead - 1) ∧ s.hw.store.pushed c t.store ∧ t.pairTable = s.hw.pairTable
            ∧ t.store.holds = s.hw.store.holds ∧ t.store.payload = s.hw.store.payload)
      ∧ ∀ (o : CardOffer) (a : Hw),
        a = { h with line := { h.line with activity := h.line.activity.set n (some s.hw.seconds) } } →
        (card = ⟨false, some o⟩ →
          ((offerMalformed o ∨ s.hw.integ.faultHold = true ∨ s.hw.store.holds.lineIn.isSome = true
              ∨ (o.kind = 0 ∧ s.hw.store.freeCount ≤ 64)) →
            exec (.pollTimerExpiry card) s = .next { s with hw := a })
          ∧ ∀ (urgent : Bool) (c : CellIx) (next : Option CellIx) (cells : List CellIx) (lead : Nat),
            offerGood o urgent → s.hw.integ.faultHold = false → s.hw.store.holds.lineIn = none →
            (if urgent then 0 else 64) < s.hw.store.freeCount → s.hw.store.freeHead = some c → s.hw.store.usable c →
            (s.hw.store.link c).upset = .none → (s.hw.store.link c).val.next = StoreRun.nextOf next →
            s.hw.store.queueIs (upq n) cells lead → c ∉ cells →
            (s.hw.store.freeGeneration.upset = .none
              ∨ (queueEligible s.hw n = true ∧ cells.length < s.hw.store.descriptors[upq n].fields.limit)) →
            ∃ t : Hw, exec (.pollTimerExpiry card) s = .next { s with hw := t } ∧ t.line = a.line
              ∧ { s.hw.store with freeHead := next, freeCount := s.hw.store.freeCount - 1 }.tookOffer t.store (upq n) cells
                  lead c o.length.toNat urgent (queueEligible s.hw n)
              ∧ s.hw.store.loaded t.store c o ∧ t.store.holds = s.hw.store.holds
              ∧ ((cells.length < s.hw.store.descriptors[upq n].fields.limit ∨ urgent = false
                  ∨ queueEligible s.hw n = false ∨ 2 < s.hw.store.descriptors[upq n].fields.highMark) →
                s.hw.recordsStepped t (fun m => m == n && congestedChanged s.hw t m)))
        ∧ (card = ⟨true, some o⟩ → s.hw.store.holds.lineOut = none → s.hw.integ.faultHold = false →
          (∀ lead, s.hw.store.queueIs (dnq n) [] lead →
            exec (.pollTimerExpiry card) s = exec (.pollTimerExpiry ⟨false, some o⟩) s)
          ∧ ∀ (c : CellIx) (rest : List CellIx) (lead : Nat), s.hw.store.queueIs (dnq n) (c :: rest) lead →
            s.hw.store.freeGeneration.upset = .none → s.hw.store.holds.lineIn = none →
            ((offerMalformed o ∨ (o.kind = 0 ∧ s.hw.store.freeCount + 1 ≤ 64)) →
              ∃ t : Hw, exec (.pollTimerExpiry card) s = .next { s with hw := t }
                ∧ t.line = { a.line with delivered := some (s.hw.deliveryOf n c lead) }
                ∧ t.store.queueIs (dnq n) rest (lead - 1) ∧ s.hw.store.pushed c t.store ∧ t.pairTable = s.hw.pairTable
                ∧ t.store.holds = s.hw.store.holds ∧ t.store.payload = s.hw.store.payload)
            ∧ ∀ (urgent : Bool) (cells : List CellIx) (mine : Nat), offerGood o urgent →
              (if urgent then 0 else 64) < s.hw.store.freeCount + 1 → s.hw.store.queueIs (upq n) cells mine →
              (∀ d ∈ cells, d ∉ c :: rest) →
              ∃ t : Hw, exec (.pollTimerExpiry card) s = .next { s with hw := t }
                ∧ t.line = { a.line with delivered := some (s.hw.deliveryOf n c lead) }
                ∧ t.store.queueIs (dnq n) rest (lead - 1)
                ∧ s.hw.store.tookOffer t.store (upq n) cells mine c o.length.toNat urgent (queueEligible s.hw n)
                ∧ s.hw.store.loaded t.store c o ∧ t.store.holds = s.hw.store.holds)

/-! ### The relay matrix -/

namespace Sys2Proof.Machine

/-- The section of the relay queue that holds the GUARD or the NORMAL entries (R87). -/
def Relay.ofClass (u : Relay) (guard : Bool) : List Entry := if guard then u.guardSection else u.normalSection

/-- A request has been taken as entry e of the relay queue, no entry having been started (R88): without an entry of its pair
it joins the end of its section; it takes the place of an entry of its class; and an entry of the other class leaves its
place for the end of the other section. Nothing else of the relay unit changes. -/
def Relay.placed (a b : Relay) (e : Entry) : Prop :=
  let g := decide (e.target = .isolated)
  b = { a with guardSection := b.guardSection, normalSection := b.normalSection }
  ∧ (¬ a.waits e.pair → b.ofClass g = a.ofClass g ++ [e] ∧ b.ofClass (!g) = a.ofClass (!g))
  ∧ ∀ (front : List Entry) (old : Entry) (back : List Entry), old.pair = e.pair →
    (a.ofClass g = front ++ old :: back → b.ofClass g = front ++ e :: back ∧ b.ofClass (!g) = a.ofClass (!g))
    ∧ (a.ofClass (!g) = front ++ old :: back → b.ofClass g = a.ofClass g ++ [e] ∧ b.ofClass (!g) = front ++ back)

end Sys2Proof.Machine

/-- R86 to R90: a move request keeps the relay queue's form and the relays sound, leaves positions and guards, and leaves no
startable entry behind while a slot is free. The pair's request is then waiting, or its move runs to that target, or the
pair stands at the target. R88, case by case, before entries are started: a request for the position of a pair at rest
without an entry is done at once, DONE going to the test bus unit when it asked; any other joins the end of its section,
takes the place of the pair's entry of its class, or makes the entry of the other class leave its place for the end of its
new section. The entries that are then started leave the queue, and the others keep their order. -/
def Obligations.MoveRequestWaitsRunsOrIsDone : Prop :=
  ∀ (r : RelayRun) (n : PairIx) (target : RelayPos) (q : Requester), r.relay.queueGood →
    (r.request n target q).relay.queueGood
    ∧ (r.relay.sound → (r.request n target q).relay.sound)
    ∧ (∀ m : PairIx, (r.request n target q).relay.pairs[m].pos = r.relay.pairs[m].pos
        ∧ (r.request n target q).relay.pairs[m].guard = r.relay.pairs[m].guard)
    ∧ ((∀ i : SlotIx, (r.request n target q).relay.slots[i].isSome = true)
        ∨ ∀ e ∈ (r.request n target q).relay.entries, RelayRun.startable (r.request n target q).relay e = false)
    ∧ (⟨n, target, q⟩ ∈ (r.request n target q).relay.entries
        ∨ ((r.request n target q).relay.pairs[n].moving = true
            ∧ (r.request n target q).relay.pairs[n].target = target)
        ∨ (r.relay.pairs[n].moving = false ∧ r.relay.pairs[n].pos = target))
    ∧ (¬ r.relay.waits n → r.relay.pairs[n].moving = false → r.relay.pairs[n].pos = target →
        r.take n target q = { r with out := r.out ++ if q = .testBus then [.report (.relayDone n target)] else [] })
    ∧ ((r.relay.waits n ∨ r.relay.pairs[n].moving = true ∨ r.relay.pairs[n].pos ≠ target) →
        (r.take n target q).out = r.out ∧ r.relay.placed (r.take n target q).relay ⟨n, target, q⟩)
    ∧ (r.request n target q).relay.guardSection.Sublist (r.take n target q).relay.guardSection
    ∧ (r.request n target q).relay.normalSection.Sublist (r.take n target q).relay.normalSection

/-- R14, R86, R90, R94, R105 and R109. The expiry of a slot's settle timer completes its move: the pair stands at the
target, which is one change of its record, and keeps its guard; each move that starts in the same event is another. With an
empty relay queue the slot is then free; a selection that waits for that move enters READY with DONE, its record closed,
while a bus that waits for the departure becomes HELD or FREE, whichever unit requested the move; in any other case a move
that is no selection changes nothing more. The expiry of a block's guard timer stops it and clears the SURGE guards of the
block's pairs, for each of which THROUGH is then requested: the request waits, its move runs, or the pair stands there;
each guard cleared, and each start, is one change of the record; MANUAL guards, and the guards of other blocks, stand. A
free slot's timer, or one that is stopped, does not expire. That the completion writes the first word without reading it,
that a SELECT's record closes with no verdict, and that the completion and a start of one pair in one event are two changes
of its record, are the model's choice (log 10, log 28, log 47). -/
def Obligations.RelayTimersCompleteMovesAndClearGuards : Prop :=
  (∀ (i : SlotIx) (s : State), s.hw.requests = [] →
    (s.hw.relay.slots[i] = none → exec (.settleTimerExpiry i) s = .next s)
    ∧ ∀ (m : Move) (x : RelayPair) (a : Hw), s.hw.relay.slots[i] = some m → x = s.hw.relay.pairs[m.pair] →
      a = { s.hw with relay := { s.hw.relay with
        pairs := s.hw.relay.pairs.set m.pair { x with pos := m.target, moving := false, target := m.target }
        slots := s.hw.relay.slots.set i none } } →
      (∃ t : Hw, exec (.settleTimerExpiry i) s = .next { s with hw := t } ∧ Follows a t
        ∧ a.recordsStepped t (fun n => n == m.pair)
        ∧ t.relay.pairs[m.pair].pos = m.target ∧ t.relay.pairs[m.pair].guard = x.guard
        ∧ ∀ q, m.pair ∈ t.pairTable.notices.get q)
      ∧ ∀ h : Hw, s.hw.relay.entries = [] → h = recordChanged m.pair a →
        ((m.requester = .relayUnit ∨ ∀ k, m.target ≠ busPos k) →
          ((∀ k, x.pos = busPos k →
              ¬ ((busRecord s.hw k).state = .deselecting ∧ (busRecord s.hw k).departing = some m.pair)) →
            exec (.settleTimerExpiry i) s = .next { s with hw := h })
          ∧ ∀ k : BusId, x.pos = busPos k →
            (busRecord s.hw k).state = .deselecting → (busRecord s.hw k).departing = some m.pair →
            exec (.settleTimerExpiry i) s = .next (withHw s (setBus k
              (if (busRecord s.hw k).holder.isSome then
                { busRecord s.hw k with
                  state := .held, departing := none, lease := some (s.hw.testBus.leaseSetting * 1000), hold := none }
              else { busRecord s.hw k with
                  state := .free, departing := none, lease := none, hold := none }) h)))
        ∧ (∀ k : BusId, m.requester = .testBus → x.pos ≠ .bus0 → x.pos ≠ .bus1 → m.target = busPos k →
            (busRecord s.hw k).state = .selecting → (busRecord s.hw k).pair = some m.pair →
            (∀ j, j ≠ k → (busRecord s.hw j).pair ≠ some m.pair) →
            exec (.settleTimerExpiry i) s = .next (withHw s (post (.done k)
              (setBus k { busRecord s.hw k with
                  state := .ready
                  lease := some (s.hw.testBus.leaseSetting * 1000)
                  hold := if s.hw.testBus.holdSetting = 0 then none else some (s.hw.testBus.holdSetting * 1000) }
                (setResult k { resultOf s.hw k with
                  status := .done, error := none, verdict := .none, closedAt := some s.hw.seconds } h))))))
  ∧ (∀ (b : BlockIx) (s : State), s.hw.requests = [] →
    (s.hw.relay.guardTimers[b] = none → exec (.guardTimerExpiry b) s = .next s)
    ∧ (s.hw.relay.guardTimers[b].isSome = true →
      ∃ t : Hw, exec (.guardTimerExpiry b) s = .next { s with hw := t }
        ∧ Follows { s.hw with relay := { s.hw.relay with
            guardTimers := s.hw.relay.guardTimers.set b none
            pairs := Vector.ofFn fun n : PairIx =>
              if n.val / 6 = b.val ∧ s.hw.relay.pairs[n].guard = .surge
              then { s.hw.relay.pairs[n] with guard := .none } else s.hw.relay.pairs[n] } } t
        ∧ s.hw.recordsStepped t (fun n => t.relay.pairs[n].guard != s.hw.relay.pairs[n].guard)
        ∧ (∀ n : PairIx, t.relay.pairs[n].guard
            = if n.val / 6 = b.val ∧ s.hw.relay.pairs[n].guard = .surge then .none else s.hw.relay.pairs[n].guard)
        ∧ (s.hw.relay.queueGood → ∀ n : PairIx, n.val / 6 = b.val → s.hw.relay.pairs[n].guard = .surge →
            t.relay.asked n .through .relayUnit)))

namespace Sys2Proof.Machine

/-- The items of ISOLATE and UNISOLATE (R95). -/
def guardItems (h : Hw) (n : PairIx) : List Byte :=
  [encodeGuard h.relay.pairs[n].guard, encodePos h.relay.pairs[n].pos, if h.relay.pairs[n].moving then 1 else 0,
    encodePos h.relay.pairs[n].target] ++ bytes2 (shownVersion h n).toNat

/-- From one state to another the guard of pair n has become g, every other guard standing, as one change of the record;
a move to the target that belongs to it has been requested, and each move that has started is a further change (R14, R86,
R95, R96). -/
def guardBecame (h t : Hw) (n : PairIx) (g : Guard) (target : RelayPos) : Prop :=
  t.relay.pairs[n].guard = g ∧ (∀ m, m ≠ n → t.relay.pairs[m].guard = h.relay.pairs[m].guard)
    ∧ (∀ q, n ∈ t.pairTable.notices.get q) ∧ h.recordsStepped t (fun m => m == n)
    ∧ (h.relay.queueGood → t.relay.asked n target .relayUnit)
    ∧ Follows { h with relay := { h.relay with
        pairs := h.relay.pairs.set n { h.relay.pairs[n] with guard := g } } } t

/-- From one state to another the first word of a pair has been read for the comparison with an expected version, if one is
given, and the read has not poisoned the record (R95). -/
def versionRead (h t : Hw) (n : PairIx) (v : Option Half) : Prop :=
  (v = none ∧ t = h) ∨ (v ≠ none ∧ firstWordRead h t n)

/-- A read of the first word of pair n finds it uncorrectable and poisons the record (R12). -/
def foundPoisoned (h : Hw) (n : PairIx) : Prop :=
  isPoisoned h n = false ∧ (storedPair h n).first.upset.outcome = .uncorrectable

/-- From one state to another pair n has been poisoned by the read that its command made, and its guard has then become g,
every other guard standing: the stored part stands, the notice is posted, and a pair on no bus has the move to the target
requested (R12, R13, R95, R96). -/
def guardBecamePoisoned (h t : Hw) (n : PairIx) (g : Guard) (target : RelayPos) : Prop :=
  isPoisoned t n = true ∧ storedPair t n = storedPair h n ∧ queueEligible t n = false
    ∧ t.relay.pairs[n].guard = g ∧ (∀ m, m ≠ n → t.relay.pairs[m].guard = h.relay.pairs[m].guard)
    ∧ (∀ q, n ∈ t.pairTable.notices.get q)
    ∧ (h.relay.queueGood → busOf h n = none → t.relay.asked n target .relayUnit)

end Sys2Proof.Machine

/-- R12, R14, R95 and R96: ISOLATE and UNISOLATE. Refusals in their order; ISOLATE of a pair that is already MANUAL, and
UNISOLATE of one without a guard, change nothing; otherwise the guard becomes MANUAL or NONE, as one change of the record,
which steps the version, and a move to ISOLATED or to THROUGH is requested: it waits, it runs, which is one more change of
the record, or the pair stands there. The comparison with an expected version follows a read of the first word, which may
correct it; a poisoned record compares as 0, and so does one that the read poisons. That the first word is read only for
this comparison, and is written by the step without a read, is the model's reading (log 11, log 10); that it is read for it
of a record that is poisoned already is the model's choice (log 62). -/
def Obligations.IsolateAndUnisolateSetGuard : Prop :=
  ∀ (p : Port) (args : List Byte) (s : State), s.hw.integ.faultHold = false →
    (Waits s p .isolate args →
      ((args.length = 0 ∨ args.length = 2) →
        exec (.isolate p args) s = .next (answered s p .isolate .missing [] s.hw))
      ∧ (∀ a rest, args = a :: rest → args.length ≠ 2 → 23 < a.toNat →
          exec (.isolate p args) s = .next (answered s p .isolate .range [] s.hw))
      ∧ ∀ (n : PairIx) rest, args = BitVec.ofNat 8 n.val :: rest → args.length ≠ 2 →
          ((busOf s.hw n).isSome = true → exec (.isolate p args) s = .next (answered s p .isolate .busy [] s.hw))
          ∧ (busOf s.hw n = none →
            (∀ h : Hw, versionRead s.hw h n (expected args 1) →
              (∀ v, expected args 1 = some v → v ≠ shownVersion h n →
                exec (.isolate p args) s = .next (answered s p .isolate .stale (bytes2 (shownVersion h n).toNat) h))
              ∧ ((∀ v, expected args 1 = some v → v = shownVersion h n) →
                (h.relay.pairs[n].guard = .manual →
                  exec (.isolate p args) s = .next (answered s p .isolate .ok (guardItems h n) h))
                ∧ (h.relay.pairs[n].guard ≠ .manual →
                  ∃ t : Hw, exec (.isolate p args) s = .next (answered s p .isolate .ok (guardItems t n) t)
                    ∧ guardBecame h t n .manual .isolated)))
            ∧ ∀ v, expected args 1 = some v → foundPoisoned s.hw n →
              (v ≠ 0 → ∃ t : Hw, exec (.isolate p args) s = .next (answered s p .isolate .stale [0, 0] t)
                ∧ pairHandled s.hw t n ∧ Follows s.hw t)
              ∧ (v = 0 → s.hw.relay.pairs[n].guard = .manual →
                ∃ t : Hw, exec (.isolate p args) s = .next (answered s p .isolate .ok (guardItems t n) t)
                  ∧ pairHandled s.hw t n ∧ Follows s.hw t)
              ∧ (v = 0 → s.hw.relay.pairs[n].guard ≠ .manual →
                ∃ t : Hw, exec (.isolate p args) s = .next (answered s p .isolate .ok (guardItems t n) t)
                  ∧ guardBecamePoisoned s.hw t n .manual .isolated)))
    ∧ (Waits s p .unisolate args →
      ((args.length = 0 ∨ args.length = 2) →
        exec (.unisolate p args) s = .next (answered s p .unisolate .missing [] s.hw))
      ∧ (∀ a rest, args = a :: rest → args.length ≠ 2 → 23 < a.toNat →
          exec (.unisolate p args) s = .next (answered s p .unisolate .range [] s.hw))
      ∧ ∀ (n : PairIx) rest, args = BitVec.ofNat 8 n.val :: rest → args.length ≠ 2 →
          (s.hw.relay.surgeLevels[blockOf n] = .high →
            exec (.unisolate p args) s = .next (answered s p .unisolate .busy [] s.hw))
          ∧ (s.hw.relay.surgeLevels[blockOf n] ≠ .high →
            (∀ h : Hw, versionRead s.hw h n (expected args 1) →
              (∀ v, expected args 1 = some v → v ≠ shownVersion h n →
                exec (.unisolate p args) s = .next (answered s p .unisolate .stale (bytes2 (shownVersion h n).toNat) h))
              ∧ ((∀ v, expected args 1 = some v → v = shownVersion h n) →
                (h.relay.pairs[n].guard = .none →
                  exec (.unisolate p args) s = .next (answered s p .unisolate .ok (guardItems h n) h))
                ∧ (h.relay.pairs[n].guard ≠ .none →
                  ∃ t : Hw, exec (.unisolate p args) s = .next (answered s p .unisolate .ok (guardItems t n) t)
                    ∧ guardBecame h t n .none .through)))
            ∧ ∀ v, expected args 1 = some v → foundPoisoned s.hw n →
              (v ≠ 0 → ∃ t : Hw, exec (.unisolate p args) s = .next (answered s p .unisolate .stale [0, 0] t)
                ∧ pairHandled s.hw t n ∧ Follows s.hw t)
              ∧ (v = 0 → s.hw.relay.pairs[n].guard = .none →
                ∃ t : Hw, exec (.unisolate p args) s = .next (answered s p .unisolate .ok (guardItems t n) t)
                  ∧ pairHandled s.hw t n ∧ Follows s.hw t)
              ∧ (v = 0 → s.hw.relay.pairs[n].guard ≠ .none →
                ∃ t : Hw, exec (.unisolate p args) s = .next (answered s p .unisolate .ok (guardItems t n) t)
                  ∧ guardBecamePoisoned s.hw t n .none .through)))

/-! ### Test buses -/

namespace Sys2Proof.Machine

/-- The byte of a bus (R193). -/
def busByte : BusId → Byte
  | .bus0 => 0 | .bus1 => 1

/-- The holder's byte, FFh for none (R193). -/
def holderByte : Option Port → Byte
  | none => 0xFF | some .sup => 0 | some .trk => 1 | some .tst => 2

/-- The outcome of a claim that leaves bus k's record b: the answer carries state, holder and the port's place on the wait
list, FFh when it is on none (R103, log 22). -/
def claimed (s : State) (p : Port) (code : AnswerCode) (k : BusId) (b : BusRecord) (place : Byte) (h : Hw) : State :=
  answered s p .claimBus code [encodeBusState b.state, holderByte b.holder, place] (setBus k b h)

end Sys2Proof.Machine

/-- R103, R106 and R107: CLAIM BUS, every answer and effect; and what a command of the holder naming its bus restarts.
The item for no place is FFh (log 22), which a holder reads while the wait list is orderly; that the hold restarts at every
such command is the model's choice (log 48). -/
def Obligations.ClaimBusGrantsOrQueues : Prop :=
  (∀ (p : Port) (k : BusId) (h : Hw), touchBus p k h =
      if (busRecord h k).holder ≠ some p then h
      else match (busRecord h k).state with
        | .ready => setBus k { busRecord h k with
            lease := some (h.testBus.leaseSetting * 1000)
            hold := if h.testBus.holdSetting = 0 then none else some (h.testBus.holdSetting * 1000) } h
        | .held => setBus k { busRecord h k with lease := some (h.testBus.leaseSetting * 1000) } h
        | .free | .selecting | .busy | .deselecting => h)
  ∧ ∀ (p : Port) (args : List Byte) (s : State), Waits s p .claimBus args → s.hw.integ.faultHold = false →
    (args = [] → exec (.claimBus p args) s = .next (answered s p .claimBus .missing [] s.hw))
    ∧ (∀ a rest, args = a :: rest → 1 < a.toNat →
        exec (.claimBus p args) s = .next (answered s p .claimBus .range [] s.hw))
    ∧ ∀ (k : BusId) (rest : List Byte) (h : Hw) (b : BusRecord), args = busByte k :: rest →
        h = touchBus p k s.hw → b = busRecord h k →
        (∀ x, rest[0]? = some x → 1 < x.toNat →
          exec (.claimBus p args) s = .next (answered s p .claimBus .range [] h))
        ∧ ∀ wait : Bool, ((rest[0]? = none ∧ wait = false) ∨ rest[0]? = some (if wait then 1 else 0)) →
          (b.holder = some p → ∃ place, exec (.claimBus p args) s = .next (claimed s p .ok k b place h)
            ∧ (b.orderly → place = 0xFF))
          ∧ (b.holder = none → ∃ place, exec (.claimBus p args) s = .next (claimed s p .ok k
              (if b.state = .free then
                { b with state := .held, holder := some p, lease := some (h.testBus.leaseSetting * 1000), hold := none }
              else { b with holder := some p }) place h)
            ∧ (b.orderly → place = 0xFF))
          ∧ ∀ q, b.holder = some q → q ≠ p →
            (wait = true → p ∉ b.wait → exec (.claimBus p args) s
              = .next (claimed s p .accepted k { b with wait := b.wait ++ [p] } (BitVec.ofNat 8 (b.wait.length + 1)) h))
            ∧ (∀ i, wait = true → b.wait[i]? = some p → p ∉ b.wait.take i → exec (.claimBus p args) s
              = .next (claimed s p .accepted k b (BitVec.ofNat 8 (i + 1)) h))
            ∧ (wait = false → exec (.claimBus p args) s
              = .next (claimed s p .held k { b with wait := b.wait.filter fun x => x ≠ p } 0xFF h))

/-- R104, R114 and R115: RELEASE BUS and FORCE RELEASE, their refusals, and their releases with the stored parts
undamaged, the state of the bus agreeing with its fields (R102). A selection so ended, and a command that RELEASE BUS ends,
posts no ABORTED, a command that FORCE RELEASE ends does; that FORCE RELEASE of a selection posts none is the model's
reading (log 38). -/
def Obligations.ReleaseCommandsPassBusOn : Prop :=
  ∀ (p : Port) (args : List Byte) (s : State), s.hw.integ.faultHold = false →
    (Waits s p .releaseBus args →
      (args = [] → exec (.releaseBus p args) s = .next (answered s p .releaseBus .missing [] s.hw))
      ∧ (∀ a rest, args = a :: rest → 1 < a.toNat →
          exec (.releaseBus p args) s = .next (answered s p .releaseBus .range [] s.hw))
      ∧ ∀ (k : BusId) rest, args = busByte k :: rest →
        ((busRecord s.hw k).holder ≠ some p →
          exec (.releaseBus p args) s = .next (answered s p .releaseBus .notHolder [] s.hw))
        ∧ ((busRecord s.hw k).holder = some p → s.hw.pairsGood → (busRecord s.hw k).coherent →
          ∃ t : Hw, exec (.releaseBus p args) s = .next (answered s p .releaseBus .ok
              [encodeBusState (busRecord t k).state, holderByte (busRecord t k).holder] t)
            ∧ Follows s.hw t ∧ releasedBus s.hw t k .stopped none
            ∧ ∀ q, t.flag q (busGroup k) 2 = s.hw.flag q (busGroup k) 2))
    ∧ (Waits s p .forceRelease args →
      (args = [] → exec (.forceRelease p args) s = .next (answered s p .forceRelease .missing [] s.hw))
      ∧ (∀ a rest, args = a :: rest → 1 < a.toNat →
          exec (.forceRelease p args) s = .next (answered s p .forceRelease .range [] s.hw))
      ∧ ∀ (k : BusId) rest, args = busByte k :: rest →
        ((busRecord s.hw k).holder = none → exec (.forceRelease p args) s
          = .next (answered s p .forceRelease .ok [encodeBusState (busRecord s.hw k).state, 0xFF] s.hw))
        ∧ ((busRecord s.hw k).holder.isSome = true → s.hw.pairsGood → (busRecord s.hw k).coherent →
          ∃ t : Hw, exec (.forceRelease p args) s = .next (answered s p .forceRelease .ok
              [encodeBusState (busRecord t k).state, holderByte (busRecord t k).holder] t)
            ∧ Follows s.hw t ∧ releasedBus s.hw t k .preempted (some .preempted)
            ∧ (∀ q, (eventsOf s.hw q).enable[busGroup k] = true → t.flag q (busGroup k) 5 = true)
            ∧ ((busRecord s.hw k).state ≠ .busy → ∀ q, t.flag q (busGroup k) 2 = s.hw.flag q (busGroup k) 2)
            ∧ ((busRecord s.hw k).state = .busy → atWork s.hw k →
                ∀ q, (eventsOf s.hw q).enable[busGroup k] = true → t.flag q (busGroup k) 2 = true)))

/-- R108 and R109: SELECT PAIR, its refusals in their order, and its taking. When the pair's relay does not stand on the
bus, is moving, or has an entry in the relay queue while every slot is taken, the bus is SELECTING with the pair, which is
one change of the pair's record, its result record is opened, the move to the bus is requested, and the pair is no longer
exchange-eligible. When the relay stands at the bus at rest, without an entry, no move is made: the bus is READY in the event
of acceptance, its lease and hold started, the result record is closed DONE, and DONE is posted. The read of the first word
may correct it, or find the record poisoned; of a record that is poisoned already no word is read, the model's choice
(log 60). Which words are read, and how the age of an activity is formed, is the model's reading (log 11, log 21); so is the
restart of the hold at a refusal (log 48), and that a SELECT takes no verdict (log 28). -/
def Obligations.SelectPairPutsPairOnBus : Prop :=
  (∀ (p : Port) (args : List Byte) (s : State), Waits s p .selectPair args → s.hw.integ.faultHold = false →
    ((args.length < 2 ∨ args.length = 4) → exec (.selectPair p args) s
      = .next (answered s p .selectPair .missing [] (afterNaming .selectPair p args s.hw)))
    ∧ ∀ a b rest, args = a :: b :: rest → args.length ≠ 4 →
      (1 < a.toNat ∨ 23 < b.toNat ∨ ∃ x, rest[0]? = some x ∧ 1 < x.toNat) → exec (.selectPair p args) s
      = .next (answered s p .selectPair .range [] (afterNaming .selectPair p args s.hw)))
  ∧ ∀ (p : Port) (args : List Byte) (s : State) (k : BusId) (n : PairIx) (force : Bool) (h : Hw) (rest : List Byte),
    Waits s p .selectPair args → s.hw.integ.faultHold = false → args.length ≠ 4 →
    args = busByte k :: BitVec.ofNat 8 n.val :: rest →
    ((rest[0]? = none ∧ force = false) ∨ rest[0]? = some (if force then 1 else 0)) →
    h = touchBus p k s.hw →
    ((busRecord h k).holder ≠ some p →
      exec (.selectPair p args) s = .next (answered s p .selectPair .notHolder [] h))
    ∧ ((busRecord h k).holder = some p →
      ((busRecord h k).state ≠ .held →
        exec (.selectPair p args) s = .next (answered s p .selectPair .busy [] h))
      ∧ ((busRecord h k).state = .held →
        ((h.power.mode = .start ∨ h.power.mode = .low ∨ h.power.mode = .critical) →
          exec (.selectPair p args) s = .next (answered s p .selectPair .power [] h))
        ∧ (h.power.mode ≠ .start → h.power.mode ≠ .low → h.power.mode ≠ .critical →
          ((busOf h n).isSome = true → exec (.selectPair p args) s = .next (answered s p .selectPair .busy [] h))
          ∧ (busOf h n = none →
            (h.relay.pairs[n].guard ≠ .none →
              exec (.selectPair p args) s = .next (answered s p .selectPair .guarded [] h))
            ∧ (h.relay.pairs[n].guard = .none →
              (isPoisoned h n = true →
                exec (.selectPair p args) s = .next (answered s p .selectPair .poisoned [] h))
              ∧ (foundPoisoned h n → ∃ t : Hw, exec (.selectPair p args) s = .next (answered s p .selectPair .poisoned [] t)
                ∧ pairHandled h t n ∧ Follows h t)
              ∧ ∀ x : Hw, isPoisoned h n = false → firstWordRead h x n →
                (∀ a, force = false → x.line.activity[n] = some a → (x.seconds - a).toNat < x.testBus.activityWindow →
                  exec (.selectPair p args) s = .next (answered s p .selectPair .inUse [] x))
                ∧ ((force = true ∨ ∀ a, x.line.activity[n] = some a → x.testBus.activityWindow ≤ (x.seconds - a).toNat) →
                  (∀ v, expected args 3 = some v → v ≠ (storedPair x n).first.val.version →
                    exec (.selectPair p args) s = .next (answered s p .selectPair .stale
                      (bytes2 (storedPair x n).first.val.version.toNat) x))
                  ∧ ((∀ v, expected args 3 = some v → v = (storedPair x n).first.val.version) →
                    (x.relay.pairs[n].pos ≠ busPos k ∨ x.relay.pairs[n].moving = true
                      ∨ (x.relay.waits n ∧ ∀ i : SlotIx, x.relay.slots[i].isSome = true)) →
                    ∃ t : Hw, exec (.selectPair p args) s = .next (answered s p .selectPair .accepted
                        (bytes2 (shownVersion t n).toNat) t)
                      ∧ busRecord t k = { busRecord x k with
                          state := .selecting, pair := some n, lease := none, hold := none }
                      ∧ resultOf t k = ⟨some .select, some n, .running, none, ⟨false, false, false⟩, none, none, none,
                          none, none, none, ⟨false, false, false, false, false, false⟩, .none, none⟩
                      ∧ exchangeEligible t n = false ∧ (∀ q, n ∈ t.pairTable.notices.get q)
                      ∧ x.recordsStepped t (fun m => m == n)
                      ∧ (x.relay.queueGood → t.relay.asked n (busPos k) .testBus)
                      ∧ Follows { setBus k { busRecord x k with pair := some n } x with
                          relay := ((relayRun x).take n (busPos k) .testBus).relay } t)
                  ∧ ((∀ v, expected args 3 = some v → v = (storedPair x n).first.val.version) →
                    x.relay.pairs[n].pos = busPos k → x.relay.pairs[n].moving = false → ¬ x.relay.waits n →
                    ∃ t : Hw, exec (.selectPair p args) s = .next (answered s p .selectPair .accepted
                        (bytes2 (shownVersion t n).toNat) t)
                      ∧ busRecord t k = { readied x k with pair := some n }
                      ∧ resultOf t k = ⟨some .select, some n, .done, none, ⟨false, false, false⟩, none, none, none,
                          none, none, none, ⟨false, false, false, false, false, false⟩, .none, some x.seconds⟩
                      ∧ (∀ q, (eventsOf x q).enable[busGroup k] = true → t.flag q (busGroup k) 1 = true)
                      ∧ exchangeEligible t n = false ∧ (∀ q, n ∈ t.pairTable.notices.get q)
                      ∧ x.recordsStepped t (fun m => m == n)
                      ∧ t.relay.pairs[n] = x.relay.pairs[n] ∧ ¬ t.relay.waits n
                      ∧ Follows (setBus k { busRecord x k with pair := some n } x) t)))))))

/-- R105 to R107, R110 and R115: DESELECT with its refusals, the expiry of the hold, and the expiry of the lease, the
state of the bus agreeing with its fields (R102); a timer that is stopped does not expire. The pair leaves the bus as one
change of its record, and its return move is requested. That this change writes the first word without reading it, and that
the hold restarts at every command of the holder that names its bus, are the model's choice (log 10, log 48). -/
def Obligations.DeselectionAndBusTimers : Prop :=
  ∀ (p : Port) (args : List Byte) (k : BusId) (s : State),
    (Waits s p .deselect args → s.hw.integ.faultHold = false →
      (args = [] → exec (.deselect p args) s = .next (answered s p .deselect .missing [] s.hw))
      ∧ ∀ a rest, args = a :: rest → 1 < a.toNat →
          exec (.deselect p args) s = .next (answered s p .deselect .range [] s.hw))
    ∧ (∀ (rest : List Byte) (h : Hw), Waits s p .deselect args → s.hw.integ.faultHold = false →
      args = busByte k :: rest → h = touchBus p k s.hw →
      ((busRecord h k).holder ≠ some p →
        exec (.deselect p args) s = .next (answered s p .deselect .notHolder [] h))
      ∧ ((busRecord h k).holder = some p →
        ((busRecord h k).state = .held → exec (.deselect p args) s = .next (answered s p .deselect .noPair [] h))
        ∧ (((busRecord h k).state = .selecting ∨ (busRecord h k).state = .busy ∨ (busRecord h k).state = .deselecting) →
          exec (.deselect p args) s = .next (answered s p .deselect .busy [] h))
        ∧ ∀ n, (busRecord h k).state = .ready → (busRecord h k).pair = some n →
          ∃ t : Hw, exec (.deselect p args) s
              = .next (answered s p .deselect .ok [encodeBusState (busRecord t k).state] t)
            ∧ busRecord t k = afterDeselect h k n (some p) (busRecord h k).wait ∧ Follows h t
            ∧ returned h t n ∧ h.recordsStepped t (fun m => m == n)))
    ∧ (s.hw.requests = [] →
      ((busRecord s.hw k).hold = none → exec (.holdExpiry k) s = .next s)
      ∧ (∀ n, (busRecord s.hw k).hold.isSome = true → (busRecord s.hw k).pair = some n →
        ∃ t : Hw, exec (.holdExpiry k) s = .next { s with hw := t }
          ∧ busRecord t k = afterDeselect s.hw k n (busRecord s.hw k).holder (busRecord s.hw k).wait ∧ Follows s.hw t
          ∧ returned s.hw t n ∧ s.hw.recordsStepped t (fun m => m == n)
          ∧ ∀ q, (eventsOf s.hw q).enable[busGroup k] = true → t.flag q (busGroup k) 4 = true)
      ∧ ((busRecord s.hw k).lease = none → exec (.leaseExpiry k) s = .next s)
      ∧ ((busRecord s.hw k).lease.isSome = true → (busRecord s.hw k).coherent →
        ∃ t : Hw, exec (.leaseExpiry k) s = .next { s with hw := t } ∧ releasedBus s.hw t k .stopped none
          ∧ Follows s.hw t
          ∧ ∀ q, (eventsOf s.hw q).enable[busGroup k] = true → t.flag q (busGroup k) 3 = true))

namespace Sys2Proof.Machine

/-- A reading in two bytes: 0 when it is absent, FFFFh for OVER (R194). -/
def shownReading : Option Reading → List Byte
  | none => [0, 0]
  | some .over => [0xFF, 0xFF]
  | some (.value v) => bytes2 v

/-- The bus result record in its 23 bytes as R194 lays it out. -/
def shownResult (r : ResultRecord) : List Byte :=
  [match r.command with | none => 0 | some .select => 1 | some .measure => 2 | some .verify => 3 | some .tone => 4,
    orNone (r.pair.map Fin.val),
    match r.status with | .none => 0 | .running => 1 | .done => 2 | .aborted => 3,
    match r.error with
      | none => 0 | some .foreign => 1 | some .overRange => 2 | some .surge => 3 | some .power => 4 | some .stopped => 5
      | some .preempted => 6 | some .profile => 7 | some .poisoned => 8 | some .fault => 9,
    flagBits [r.set.loop, r.set.leak, r.set.cap],
    orNone (r.profile.map fun x => x.1.val),
    match r.profile with
      | none => 0xFF
      | some (_, .rom) => 0
      | some (_, .channel c) => BitVec.ofNat 8 (c.val + 1),
    flagBits [r.foreign.isSome, r.loop.isSome, r.leakA.isSome, r.leakB.isSome, r.cap.isSome, r.closedAt.isSome],
    r.foreign.getD 0]
  ++ shownReading r.loop ++ shownReading r.leakA ++ shownReading r.leakB ++ shownReading r.cap
  ++ [flagBits [r.flags.loopHigh, r.flags.leakALow, r.flags.leakBLow, r.flags.capLow, r.flags.capHigh,
        r.flags.foreignHigh],
      verdictByte r.verdict]
  ++ bytes4 (r.closedAt.getD 0).toNat

end Sys2Proof.Machine

/-- R116, R139 and R194: READ BUS and READ RESULT answer the bus's record and its result record, laid out in 23 bytes, and
change nothing but the timers of R106 and R107 when the holder issues them. The tone's remaining time is shown in seconds
as log 9 says, and that the hold restarts is the model's choice (log 48). -/
def Obligations.BusReadsAnswerRecords : Prop :=
  ∀ (p : Port) (args : List Byte) (s : State),
    (Waits s p .readBus args →
      (args = [] → exec (.readBus p args) s = .next (answered s p .readBus .missing [] s.hw))
      ∧ (∀ a rest, args = a :: rest → 1 < a.toNat →
          exec (.readBus p args) s = .next (answered s p .readBus .range [] s.hw))
      ∧ ∀ (k : BusId) rest (h : Hw) (b : BusRecord), args = busByte k :: rest → h = touchBus p k s.hw →
          b = busRecord h k → exec (.readBus p args) s = .next (answered s p .readBus .ok
            ([encodeBusState b.state, holderByte b.holder, BitVec.ofNat 8 b.wait.length]
              ++ b.wait.map (fun q => holderByte (some q))
              ++ [match b.pair with | none => 0xFF | some n => BitVec.ofNat 8 n.val,
                  match b.departing with | none => 0xFF | some n => BitVec.ofNat 8 n.val]
              ++ bytes3 (timerMs b.lease) ++ bytes2 (timerMs b.hold)
              ++ [BitVec.ofNat 8 h.testBus.leaseSetting, BitVec.ofNat 8 h.testBus.holdSetting,
                  BitVec.ofNat 8 h.testBus.activityWindow]) h))
    ∧ (Waits s p .readResult args →
      (args = [] → exec (.readResult p args) s = .next (answered s p .readResult .missing [] s.hw))
      ∧ (∀ a rest, args = a :: rest → 1 < a.toNat →
          exec (.readResult p args) s = .next (answered s p .readResult .range [] s.hw))
      ∧ ∀ (k : BusId) rest (h : Hw), args = busByte k :: rest → h = touchBus p k s.hw →
          exec (.readResult p args) s = .next (answered s p .readResult .ok
            (shownResult (resultOf h k) ++ [BitVec.ofNat 8 (fifoPlace h k)]
              ++ bytes2 (secondsShown (timerMs (h.meas.tones.get k)))) h)
            ∧ (shownResult (resultOf h k)).length = 23)

/-! ### Measurements -/

namespace Sys2Proof.Machine

/-- The arguments of MEASURE, VERIFY, TONE and STOP in order, naming a bus (R132, R133, R135, R136). -/
def testArgs : Cmd → List Byte → BusId → Prop
  | .measure, args, k => ∃ rest, args = busByte k :: rest
      ∧ (rest[0]? = none ∨ ∃ b : Byte, rest[0]? = some b ∧ 1 ≤ b.toNat ∧ b.toNat ≤ 7)
  | .verify, args, k => ∃ b rest, args = busByte k :: b :: rest ∧ b.toNat ≤ 15
  | .tone, args, k => ∃ hi lo rest, args = busByte k :: hi :: lo :: rest ∧ 1 ≤ (hi ++ lo : Half).toNat
      ∧ (hi ++ lo : Half).toNat ≤ 600
  | .stop, args, k => ∃ rest, args = busByte k :: rest
  | _, _, _ => False

/-- A command opened on a bus's result record: cleared, then command, pair, RUNNING, set and profile (R123). -/
def opened (c : TestCmd) (n : PairIx) (set : MeasSet) (profile : Option (Fin 16 × ProfileSource)) : ResultRecord :=
  ⟨some c, some n, .running, none, set, profile, none, none, none, none, none,
    ⟨false, false, false, false, false, false⟩, .none, none⟩

/-- A request has been accepted on a bus: it stands last in the FIFO, its stage FOREIGN starts when it is the first, its
record is open, and the bus is BUSY with its timers stopped (R111, R119, R120, R123). -/
def acceptedRequest (h : Hw) (k : BusId) (r : TestRequest) (rec : ResultRecord) : Hw :=
  setBus k { busRecord h k with state := .busy, lease := none, hold := none }
    { h with meas := { h.meas with
        results := h.meas.results.set k rec
        fifo := h.meas.fifo ++ [r]
        stage := if h.meas.fifo = [] then some .foreign else h.meas.stage
        stageTimer := if h.meas.fifo = [] then some 40 else h.meas.stageTimer
        setup := if h.meas.fifo = [] then some (k, .foreign) else h.meas.setup } }

end Sys2Proof.Machine

/-- R111, R119, R136 and R138. MEASURE, VERIFY, TONE and STOP with their arguments in order are refused by the bus:
NOT_HOLDER, then NO_PAIR in HELD, then BUSY in SELECTING and DESELECTING, and in BUSY for all but STOP. STOP without a bus is
MISSING, and above 1 RANGE; in READY it is answered OK and changes nothing but the timers; in BUSY with the pair's stored
part undamaged it aborts the bus's command wherever it stands: the record is closed ABORTED with STOPPED, a MEASURE or VERIFY
writes the summary of its pair, the request or tone is gone, the bus is READY with its timers started, and ABORTED is not
posted. When the request that leaves is the front, the next one starts its FOREIGN stage, with its timer and setup; when it
is not, the request in progress goes on. That the OK in READY carries no data, and that an aborted TONE takes no verdict, are
the model's choice (log 22, log 28). -/
def Obligations.BusGatesAndStopsTestCommands : Prop :=
  (∀ (i : Instr) (c : Cmd) (p : Port) (args : List Byte) (k : BusId) (s : State) (h : Hw),
    i.passing = some (c, p, args) → testArgs c args k → Waits s p c args → s.hw.integ.faultHold = false →
    h = touchBus p k s.hw →
    ((busRecord h k).holder ≠ some p → exec i s = .next (answered s p c .notHolder [] h))
    ∧ ((busRecord h k).holder = some p →
      ((busRecord h k).state = .held → exec i s = .next (answered s p c .noPair [] h))
      ∧ (((busRecord h k).state = .selecting ∨ (busRecord h k).state = .deselecting
            ∨ ((busRecord h k).state = .busy ∧ c ≠ .stop)) →
          exec i s = .next (answered s p c .busy [] h))))
  ∧ (∀ (p : Port) (args : List Byte) (s : State), Waits s p .stop args → s.hw.integ.faultHold = false →
    (args = [] → exec (.stop p args) s = .next (answered s p .stop .missing [] s.hw))
    ∧ ∀ a rest, args = a :: rest → 1 < a.toNat → exec (.stop p args) s = .next (answered s p .stop .range [] s.hw))
  ∧ (∀ (p : Port) (args : List Byte) (s : State) (k : BusId) (h : Hw) (rest : List Byte),
    Waits s p .stop args → s.hw.integ.faultHold = false → args = busByte k :: rest → h = touchBus p k s.hw →
    (busRecord h k).holder = some p →
    ((busRecord h k).state = .ready → exec (.stop p args) s = .next (answered s p .stop .ok [] h))
    ∧ (∀ n, (busRecord h k).state = .busy → (resultOf h k).pair = some n → h.undamaged n →
        (fifoPlace h k ≠ 0 ∨ (h.meas.tones.get k).isSome = true) →
        ∃ t : Hw, exec (.stop p args) s = .next (answered s p .stop .ok [3, 5] t)
          ∧ resultOf t k = { resultOf h k with
              status := .aborted, error := some .stopped, verdict := abortedVerdict (resultOf h k).command
              closedAt := some h.seconds }
          ∧ (∀ m, storedPair t m = if m = n ∧ isPoisoned h n = false
                ∧ ((resultOf h k).command = some .measure ∨ (resultOf h k).command = some .verify)
              then afterSummary h n .error ((resultOf h k).profile.map Prod.fst) else storedPair h m)
          ∧ fifoPlace t k = 0 ∧ t.meas.tones.get k = none
          ∧ leftFifo h t k
          ∧ busRecord t k = { busRecord h k with
              state := .ready
              lease := some (h.testBus.leaseSetting * 1000)
              hold := if h.testBus.holdSetting = 0 then none else some (h.testBus.holdSetting * 1000) }
          ∧ Follows h t ∧ ∀ q, t.flag q (busGroup k) 2 = h.flag q (busGroup k) 2))

/-- R118 to R120, R132 and R135: MEASURE and TONE, their refusals of arguments, MEASURE's refusal of a poisoned record, and
their acceptance in READY: the answer is the request's place in the FIFO. -/
def Obligations.MeasureAndToneJoinFifo : Prop :=
  ∀ (p : Port) (args : List Byte) (s : State), s.hw.integ.faultHold = false →
    (Waits s p .measure args →
      (args = [] → exec (.measure p args) s = .next (answered s p .measure .missing [] s.hw))
      ∧ (∀ a rest, args = a :: rest → 1 < a.toNat →
          exec (.measure p args) s = .next (answered s p .measure .range [] s.hw))
      ∧ (∀ (k : BusId) (b : Byte) rest, args = busByte k :: b :: rest → (b = 0 ∨ 7 < b.toNat) →
          exec (.measure p args) s = .next (answered s p .measure .range [] (touchBus p k s.hw)))
      ∧ ∀ (k : BusId) (n : PairIx) (set : MeasSet) (h : Hw) rest, args = busByte k :: rest → h = touchBus p k s.hw →
          ((rest[0]? = none ∧ set = ⟨true, true, true⟩)
            ∨ ∃ b : Byte, rest[0]? = some b ∧ 1 ≤ b.toNat ∧ b.toNat ≤ 7
                ∧ set = ⟨b.getLsbD 0, b.getLsbD 1, b.getLsbD 2⟩) →
          (busRecord h k).holder = some p → (busRecord h k).state = .ready → (busRecord h k).pair = some n →
          (isPoisoned h n = true → exec (.measure p args) s = .next (answered s p .measure .poisoned [] h))
          ∧ (isPoisoned h n = false → (∀ r ∈ h.meas.fifo, r.bus ≠ k) →
            exec (.measure p args) s = .next (answered s p .measure .accepted
              [BitVec.ofNat 8 (h.meas.fifo.length + 1)]
              (acceptedRequest h k ⟨k, n, .measure, set⟩ (opened .measure n set none)))))
    ∧ (Waits s p .tone args →
      (args.length < 3 → ∃ h : Hw, exec (.tone p args) s = .next (answered s p .tone .missing [] h)
        ∧ h = afterNaming .tone p args s.hw)
      ∧ (∀ a b c rest, args = a :: b :: c :: rest → 1 < a.toNat →
          exec (.tone p args) s = .next (answered s p .tone .range [] s.hw))
      ∧ (∀ (k : BusId) (hi lo : Byte) rest, args = busByte k :: hi :: lo :: rest →
          ((hi ++ lo : Half).toNat = 0 ∨ 600 < (hi ++ lo : Half).toNat) →
          exec (.tone p args) s = .next (answered s p .tone .range [] (touchBus p k s.hw)))
      ∧ ∀ (k : BusId) (n : PairIx) (hi lo : Byte) (h : Hw) rest, args = busByte k :: hi :: lo :: rest →
          1 ≤ (hi ++ lo : Half).toNat → (hi ++ lo : Half).toNat ≤ 600 → h = touchBus p k s.hw →
          (busRecord h k).holder = some p → (busRecord h k).state = .ready → (busRecord h k).pair = some n →
          (∀ r ∈ h.meas.fifo, r.bus ≠ k) →
          exec (.tone p args) s = .next (answered s p .tone .accepted [BitVec.ofNat 8 (h.meas.fifo.length + 1)]
            (acceptedRequest h k ⟨k, n, .tone (hi ++ lo : Half).toNat, ⟨false, false, false⟩⟩
              (opened .tone n ⟨false, false, false⟩ none))))

namespace Sys2Proof.Machine

/-- The words of every overlay channel that is not poisoned are undamaged (R125); those of a poisoned one may be, or not
(R169). -/
def Hw.channelsGood (h : Hw) : Prop :=
  ∀ c, (channelOf h c).poisoned = false →
    (channelOf h c).target.upset = .none ∧ (channelOf h c).low.upset = .none ∧ (channelOf h c).high.upset = .none

/-- The effective profile of p by R126, the words of the channels that are not poisoned being undamaged: the record of a
channel in effect that targets p, the first in channel order; nothing when none does and some channel in effect is
poisoned; else the ROM record. -/
def effective (h : Hw) (p : Fin 16) (found : Option (Profile × ProfileSource)) : Prop :=
  (∃ c : Fin 4, targets h p c = true ∧ (∀ d, d < c → targets h p d = false)
      ∧ found = some (⟨(channelOf h c).low.val, (channelOf h c).high.val⟩, .channel c))
  ∨ ((∀ c, targets h p c = false)
      ∧ (∃ c, ((channelOf h c).state = .armed ∨ (channelOf h c).state = .clearing) ∧ (channelOf h c).poisoned = true)
      ∧ found = none)
  ∨ ((∀ c, targets h p c = false)
      ∧ (∀ c, ((channelOf h c).state = .armed ∨ (channelOf h c).state = .clearing) → (channelOf h c).poisoned = false)
      ∧ found = some (profileRom p, .rom))

end Sys2Proof.Machine

namespace Sys2Proof.Machine

/-- A profile in the units of R124's table: its set, LOOP, LEAK and CAP; then loop max in ohms, leak min in kilohms, cap min
and cap max in nF, foreign max in V, and the profile number. -/
def Profile.line (x : Profile) : (Bool × Bool × Bool) × List Nat :=
  ((x.low.set.loop, x.low.set.leak, x.low.set.cap),
    [x.low.loopMax.toNat * 10, x.low.leakMin.toNat, x.high.capMin.toNat * 10, x.high.capMax.toNat * 10,
      x.high.foreignMax.toNat, x.high.number.val])

end Sys2Proof.Machine

/-- R124, R126 and R133: the sixteen profiles of the ROM, a dash of the table being 0; VERIFY's refusals of arguments; and
VERIFY in READY with the words of the channels that are not poisoned undamaged: POISONED; the request with its copy of the
effective profile joins the FIFO; or the lookup ends in PROFILE, and the record is closed ABORTED with PROFILE and ERROR,
ABORTED is posted, the summary is written, and the bus stays READY. That such a record names no profile is the model's
reading (log 35). -/
def Obligations.VerifyLooksUpProfile : Prop :=
  ((List.finRange 16).map fun p => (profileRom p).line) =
    [((true, true, true), [1500, 1000, 20, 1500, 10, 0]),
     ((true, true, true), [1800, 1000, 20, 2000, 10, 1]),
     ((true, true, true), [900, 2000, 10, 800, 10, 2]),
     ((false, true, false), [0, 5000, 0, 0, 5, 3]),
     ((false, true, false), [0, 200, 0, 0, 30, 4]),
     ((true, false, false), [1500, 0, 0, 0, 10, 5]),
     ((true, true, false), [1500, 1000, 0, 0, 10, 6]),
     ((false, false, true), [0, 0, 50, 2000, 10, 7]),
     ((true, true, true), [2550, 500, 0, 2550, 60, 8]),
     ((true, true, true), [1200, 10000, 30, 1200, 5, 9]),
     ((false, true, true), [0, 1000, 20, 1500, 10, 10]),
     ((true, false, true), [1500, 0, 20, 1500, 10, 11]),
     ((false, false, false), [0, 0, 0, 0, 5, 12]),
     ((false, false, false), [0, 0, 0, 0, 30, 13]),
     ((true, true, true), [1500, 1000, 20, 1500, 0, 14]),
     ((true, true, true), [2550, 0, 0, 2550, 255, 15])]
  ∧ (∀ (p : Port) (args : List Byte) (s : State), Waits s p .verify args → s.hw.integ.faultHold = false →
    (args.length < 2 → exec (.verify p args) s
      = .next (answered s p .verify .missing [] (afterNaming .verify p args s.hw)))
    ∧ ∀ a b rest, args = a :: b :: rest → (1 < a.toNat ∨ 15 < b.toNat) → exec (.verify p args) s
      = .next (answered s p .verify .range [] (afterNaming .verify p args s.hw)))
  ∧ ∀ (p : Port) (args : List Byte) (s : State) (k : BusId) (n : PairIx) (profile : Fin 16) (h : Hw) (rest : List Byte),
    Waits s p .verify args → s.hw.integ.faultHold = false →
    args = busByte k :: BitVec.ofNat 8 profile.val :: rest → h = touchBus p k s.hw →
    (busRecord h k).holder = some p → (busRecord h k).state = .ready → (busRecord h k).pair = some n →
    (isPoisoned h n = true → exec (.verify p args) s = .next (answered s p .verify .poisoned [] h))
    ∧ (isPoisoned h n = false → h.channelsGood → (∀ r ∈ h.meas.fifo, r.bus ≠ k) →
      (∀ (copy : Profile) (source : ProfileSource), effective h profile (some (copy, source)) →
        exec (.verify p args) s = .next (answered s p .verify .accepted [BitVec.ofNat 8 (h.meas.fifo.length + 1)]
          (acceptedRequest h k ⟨k, n, .verify copy source, copy.low.set⟩
            (opened .verify n copy.low.set (some (profile, source))))))
      ∧ (effective h profile none → h.undamaged n →
        ∃ t : Hw, exec (.verify p args) s = .next (answered s p .verify .ok [3, 7] t)
          ∧ resultOf t k = { opened .verify n ⟨false, false, false⟩ none with
              status := .aborted, error := some .profile, verdict := .error, closedAt := some h.seconds }
          ∧ (∀ m, storedPair t m = if m = n then afterSummary h n .error (some profile) else storedPair h m)
          ∧ busRecord t k = busRecord h k ∧ t.meas.fifo = h.meas.fifo ∧ Follows h t
          ∧ ∀ q, (eventsOf h q).enable[busGroup k] = true → t.flag q (busGroup k) 2 = true))

/-! ### Settings and acknowledgements -/

namespace Sys2Proof.Machine

/-- An optional argument that is in order: omitted, the value held; or a byte within its range. -/
def given (args : List Byte) (i lo hi held v : Nat) : Prop :=
  (args[i]? = none ∧ v = held) ∨ ∃ b, args[i]? = some b ∧ v = b.toNat ∧ lo ≤ v ∧ v ≤ hi

/-- An optional argument given outside its range. -/
def outside (args : List Byte) (i lo hi : Nat) : Prop := ∃ b, args[i]? = some b ∧ (b.toNat < lo ∨ hi < b.toNat)

end Sys2Proof.Machine

/-- R98, R116, R164, R168, R171 and R173: SET RELAY TIMING, SET BUS TIMING, SET POWER POLICY, SET SCRUB, ACK FAULT and
CLEAR CORRECTIONS outside FAULT HOLD, every answer and effect; nothing else changes. ACK FAULT with no record pending
answers no data (log 22). -/
def Obligations.SettingsAndAcknowledgements : Prop :=
  ∀ (p : Port) (args : List Byte) (s : State), s.hw.integ.faultHold = false →
    (Waits s p .setRelayTiming args →
      (outside args 0 2 30 → exec (.setRelayTiming p args) s = .next (answered s p .setRelayTiming .range [] s.hw))
      ∧ ∀ settle guard : Nat, given args 0 2 30 s.hw.relay.settleTime settle →
          given args 1 0 255 s.hw.relay.guardTime guard →
          exec (.setRelayTiming p args) s = .next (answered s p .setRelayTiming .ok
            [BitVec.ofNat 8 settle, BitVec.ofNat 8 guard]
            { s.hw with relay := { s.hw.relay with settleTime := settle, guardTime := guard } }))
    ∧ (Waits s p .setBusTiming args →
      ((outside args 0 10 255 ∨ outside args 1 0 60 ∨ outside args 2 1 60) →
        exec (.setBusTiming p args) s = .next (answered s p .setBusTiming .range [] s.hw))
      ∧ ∀ lease hold window : Nat, given args 0 10 255 s.hw.testBus.leaseSetting lease →
          given args 1 0 60 s.hw.testBus.holdSetting hold → given args 2 1 60 s.hw.testBus.activityWindow window →
          exec (.setBusTiming p args) s = .next (answered s p .setBusTiming .ok
            [BitVec.ofNat 8 lease, BitVec.ofNat 8 hold, BitVec.ofNat 8 window]
            { s.hw with testBus := { s.hw.testBus with
                leaseSetting := lease, holdSetting := hold, activityWindow := window } }))
    ∧ (Waits s p .setPowerPolicy args →
      (outside args 2 1 60 → exec (.setPowerPolicy p args) s = .next (answered s p .setPowerPolicy .range [] s.hw))
      ∧ ∀ grace restore interval : Nat, given args 0 0 255 s.hw.power.graceTime grace →
          given args 1 0 255 s.hw.power.restoreDelay restore → given args 2 1 60 s.hw.power.stepInterval interval →
          exec (.setPowerPolicy p args) s = .next (answered s p .setPowerPolicy .ok
            [BitVec.ofNat 8 grace, BitVec.ofNat 8 restore, BitVec.ofNat 8 interval]
            { s.hw with power := { s.hw.power with
                graceTime := grace, restoreDelay := restore, stepInterval := interval } }))
    ∧ (Waits s p .setScrub args →
      (args[0]? = none → exec (.setScrub p args) s = .next (answered s p .setScrub .ok
        ([BitVec.ofNat 8 s.hw.integ.scrubInterval] ++ bytes2 s.hw.integ.cursor ++ bytes2 s.hw.integ.passCount.toNat)
        s.hw))
      ∧ ∀ b : Byte, args[0]? = some b → exec (.setScrub p args) s = .next (answered s p .setScrub .ok
        ([b] ++ bytes2 s.hw.integ.cursor ++ bytes2 s.hw.integ.passCount.toNat)
        { s.hw with integ := { s.hw.integ with
            scrubInterval := b.toNat, scrubTimer := if b = 0 then none else some b.toNat } }))
    ∧ (Waits s p .ackFault args →
      (s.hw.integ.pending = none → exec (.ackFault p args) s = .next (answered s p .ackFault .ok [] s.hw))
      ∧ ∀ e, s.hw.integ.pending = some e →
          ((s.hw.integ.gate = .waiting ∨ s.hw.integ.gate = .inPass) → exec (.ackFault p args) s
            = .next (answered s p .ackFault .busy [encodeGate s.hw.integ.gate] s.hw))
          ∧ (s.hw.integ.gate = .satisfied → exec (.ackFault p args) s = .next (answered s p .ackFault .ok
            ([encodeArea (areaOf e.index)] ++ bytes2 e.index ++ bytesSeconds e.time)
            { s.hw with integ := { s.hw.integ with pending := none, gate := .none } })))
    ∧ (Waits s p .clearCorrections args → exec (.clearCorrections p args) s
        = .next (answered s p .clearCorrections .ok [s.hw.integ.corrections]
          { s.hw with integ := { s.hw.integ with corrections := 0 } }))

/-! ### Overlay channels -/

namespace Sys2Proof.Machine

/-- A channel's target as an answer shows it: FFh for none, FEh when the channel is poisoned (log 23). -/
def shownTarget (x : Channel) : Byte :=
  if x.poisoned then 0xFE else match x.target.val with
    | none => 0xFF
    | some v => BitVec.ofNat 8 v.val

/-- The refusals that OVERLAY OPEN, ARM, RETIRE and CLOSE share: MISSING, and RANGE above 3 (R128 to R130). -/
def channelRefusals (i : Instr) (c : Cmd) (p : Port) (args : List Byte) (s : State) : Prop :=
  (args = [] → exec i s = .next (answered s p c .missing [] s.hw))
  ∧ ∀ a rest, args = a :: rest → 3 < a.toNat → exec i s = .next (answered s p c .range [] s.hw)

end Sys2Proof.Machine

/-- R128: OVERLAY OPEN and OVERLAY WRITE outside FAULT HOLD, every answer and effect. -/
def Obligations.OverlayOpenAndWriteLoadChannel : Prop :=
  ∀ (p : Port) (args : List Byte) (s : State), s.hw.integ.faultHold = false →
    (Waits s p .overlayOpen args → channelRefusals (.overlayOpen p args) .overlayOpen p args s
      ∧ ∀ (c : Fin 4) rest, args = BitVec.ofNat 8 c.val :: rest →
        ((channelOf s.hw c).state ≠ .free →
          exec (.overlayOpen p args) s = .next (answered s p .overlayOpen .busy [] s.hw))
        ∧ ((channelOf s.hw c).state = .free →
          exec (.overlayOpen p args) s = .next (answered s p .overlayOpen .ok [1, 0xFF, 0]
            (setChannel c ⟨.loading, false, ⟨none, .none⟩, ⟨⟨⟨false, false, false⟩, 0, 0⟩, .none⟩, ⟨⟨0, 0, 0, 0⟩, .none⟩⟩
              s.hw))))
    ∧ (Waits s p .overlayWrite args →
      (args.length < 10 → exec (.overlayWrite p args) s = .next (answered s p .overlayWrite .missing [] s.hw))
      ∧ ∀ (a t set loopMax leakHi leakLo capMin capMax foreignMax number : Byte) rest,
        args = a :: t :: set :: loopMax :: leakHi :: leakLo :: capMin :: capMax :: foreignMax :: number :: rest →
        ((3 < a.toNat ∨ 15 < t.toNat ∨ 7 < set.toNat ∨ capMax.toNat < capMin.toNat ∨ number ≠ t) →
          exec (.overlayWrite p args) s = .next (answered s p .overlayWrite .range [] s.hw))
        ∧ ∀ (c : Fin 4) (target : Fin 16), a = BitVec.ofNat 8 c.val → t = BitVec.ofNat 8 target.val →
          set.toNat ≤ 7 → capMin.toNat ≤ capMax.toNat → number = t →
          ((channelOf s.hw c).state ≠ .loading →
            exec (.overlayWrite p args) s = .next (answered s p .overlayWrite .busy [] s.hw))
          ∧ ((channelOf s.hw c).state = .loading →
            exec (.overlayWrite p args) s = .next (answered s p .overlayWrite .ok [1, t, 0]
              (setChannel c ⟨.loading, false, ⟨some target, .none⟩,
                ⟨⟨⟨set.getLsbD 0, set.getLsbD 1, set.getLsbD 2⟩, loopMax, leakHi ++ leakLo⟩, .none⟩,
                ⟨⟨capMin, capMax, foreignMax, target⟩, .none⟩⟩ s.hw))))

/-- R127, R129, R130 and R167 to R169: OVERLAY ARM, in the order of its answers: an uncorrectable target word of the channel
poisons it, and changes nothing when it is poisoned already; one upset bit in it is corrected and counted, and the word is
then compared as one that is GOOD; a channel in effect that is poisoned, or is found so, or has the same
target, makes it DUPLICATE. OVERLAY RETIRE and OVERLAY CLOSE, poisoned or not. Which target words ARM reads is the model's
reading (log 40), and the target that RETIRE and CLOSE show is its choice where no word is read (log 23). -/
def Obligations.OverlayArmRetireAndCloseMoveChannel : Prop :=
  ∀ (p : Port) (args : List Byte) (s : State), s.hw.integ.faultHold = false →
    (Waits s p .overlayArm args → channelRefusals (.overlayArm p args) .overlayArm p args s
      ∧ ∀ (c : Fin 4) rest, args = BitVec.ofNat 8 c.val :: rest →
        ((channelOf s.hw c).state ≠ .loading →
          exec (.overlayArm p args) s = .next (answered s p .overlayArm .busy [] s.hw))
        ∧ ((channelOf s.hw c).state = .loading →
          ((channelOf s.hw c).target.upset.outcome = .uncorrectable →
            ∃ h : Hw, exec (.overlayArm p args) s = .next (answered s p .overlayArm .poisoned [] h) ∧ Follows s.hw h
              ∧ (channelOf h c).poisoned = true ∧ ((channelOf s.hw c).poisoned = true → h = s.hw))
          ∧ ∀ h : Hw, targetWordRead s.hw h c →
            ((channelOf h c).target.val = none →
              exec (.overlayArm p args) s = .next (answered s p .overlayArm .busy [] h))
            ∧ ∀ v, (channelOf h c).target.val = some v →
              ((channelOf h c).poisoned = true →
                exec (.overlayArm p args) s = .next (answered s p .overlayArm .poisoned [] h))
              ∧ ((channelOf h c).poisoned = false →
                (∀ d, d ≠ c → ((channelOf h d).state = .armed ∨ (channelOf h d).state = .clearing) →
                  ((channelOf h d).poisoned = true ∨ (channelOf h d).target.upset.outcome = .uncorrectable
                    ∨ (channelOf h d).target.val = some v) →
                  ∃ t : Hw, exec (.overlayArm p args) s = .next (answered s p .overlayArm .duplicate [] t)
                    ∧ Follows h t
                    ∧ ((∀ x, x ≠ c → ((channelOf h x).state = .armed ∨ (channelOf h x).state = .clearing) →
                        (channelOf h x).target.upset = .none ∨ ((channelOf h x).poisoned = true
                          ∧ (channelOf h x).target.upset.outcome = .uncorrectable)) → t = h))
                ∧ ∀ armed : Hw, armed = setChannel c { channelOf h c with state := .armed } h →
                  (∀ d, d ≠ c → ((channelOf h d).state = .armed ∨ (channelOf h d).state = .clearing) →
                    (channelOf h d).poisoned = false ∧ (channelOf h d).target.upset.outcome ≠ .uncorrectable
                    ∧ (channelOf h d).target.val ≠ some v) →
                  ∃ t : Hw, exec (.overlayArm p args) s
                      = .next (answered s p .overlayArm .ok [2, BitVec.ofNat 8 v.val] t)
                    ∧ Follows armed t
                    ∧ ((∀ x, x ≠ c → ((channelOf h x).state = .armed ∨ (channelOf h x).state = .clearing) →
                        (channelOf h x).target.upset = .none) → t = armed))))
    ∧ (Waits s p .overlayRetire args → channelRefusals (.overlayRetire p args) .overlayRetire p args s
      ∧ ∀ (c : Fin 4) rest, args = BitVec.ofNat 8 c.val :: rest →
        ((channelOf s.hw c).state ≠ .armed →
          exec (.overlayRetire p args) s = .next (answered s p .overlayRetire .busy [] s.hw))
        ∧ ((channelOf s.hw c).state = .armed →
          exec (.overlayRetire p args) s = .next (answered s p .overlayRetire .ok [3, shownTarget (channelOf s.hw c)]
            (setChannel c { channelOf s.hw c with state := .clearing } s.hw))))
    ∧ (Waits s p .overlayClose args → channelRefusals (.overlayClose p args) .overlayClose p args s
      ∧ ∀ (c : Fin 4) rest, args = BitVec.ofNat 8 c.val :: rest →
        ((channelOf s.hw c).state ≠ .clearing →
          exec (.overlayClose p args) s = .next (answered s p .overlayClose .busy [] s.hw))
        ∧ ((channelOf s.hw c).state = .clearing →
          exec (.overlayClose p args) s = .next (answered s p .overlayClose .ok [0, shownTarget (channelOf s.hw c)]
            (setChannel c { channelOf s.hw c with state := .free } s.hw))))

/-- R12, R37, R39, R40, R42, R126, R127, R131, R167 to R170, R176 and R194: READ PROFILE, the words of the channels that are
not poisoned undamaged; and TABLE READ. A word that is GOOD is shown and, the sparse tables being in their canonical form,
nothing changes; a word with one upset bit is corrected, with the correction count raised; one with two is taken as its area
gives, a word of a pair poisoning its record with all that R12 has follow, a link word as the owner word of its cell gives,
and is recorded: as the pending record when none stands, and as the cause of FAULT HOLD when one does; a GENERATION word
with two enters FAULT HOLD, which frees both buses. An overlay channel's two record words hold the bytes of the profile
record, in the model's order (log 50); the layout of the other words and the check bits are free values (log 4, log 5), and
the target shown is log 23's. That a break by a link word or by one descriptor word writes all three words, read or not, is
the model's choice (log 44, log 55); that a change of a record which follows writes the first word without reading it is its
reading (log 10). -/
def Obligations.ProfileAndTableReadsCheckWords : Prop :=
  ∀ (p : Port) (args : List Byte) (s : State),
    (Waits s p .readProfile args →
      (args = [] → exec (.readProfile p args) s = .next (answered s p .readProfile .missing [] s.hw))
      ∧ (∀ a rest, args = a :: rest → 15 < a.toNat →
          exec (.readProfile p args) s = .next (answered s p .readProfile .range [] s.hw))
      ∧ ∀ (profile : Fin 16) rest, args = BitVec.ofNat 8 profile.val :: rest →
          (∃ data h, exec (.readProfile p args) s = .next (answered s p .readProfile .ok data h) ∧ Follows s.hw h
            ∧ data.length = 17)
          ∧ ∀ found, s.hw.channelsGood → effective s.hw profile found →
            exec (.readProfile p args) s = .next (answered s p .readProfile .ok
              ((match found with
                | some (r, source) => [encodeSource source, encodeSet r.low.set, r.low.loopMax] ++ bytes2 r.low.leakMin.toNat
                    ++ [r.high.capMin, r.high.capMax, r.high.foreignMax, BitVec.ofNat 8 r.high.number.val]
                | none => [0xFE, 0, 0, 0, 0, 0, 0, 0, 0])
                ++ (List.finRange 4).flatMap fun c =>
                  [encodeChannelState (channelOf s.hw c).state ||| (if (channelOf s.hw c).poisoned then 4 else 0),
                    shownTarget (channelOf s.hw c)]) s.hw))
    ∧ (Waits s p .tableRead args →
      (args.length < 2 → exec (.tableRead p args) s = .next (answered s p .tableRead .missing [] s.hw))
      ∧ ∀ (v : Half) (i : Nat) (shown : List Byte), expected args 0 = some v → i = v.toNat →
        shown = [encodeArea (areaOf i)] ++ bytes2 i ++ bytes4 ((wordBits s.hw i).extractLsb' 0 32).toNat
          ++ [BitVec.ofNat 8 ((wordBits s.hw i).extractLsb' 32 7).toNat] →
        (4373 ≤ i → exec (.tableRead p args) s = .next (answered s p .tableRead .range [] s.hw))
        ∧ (i < 4373 →
          (wordUpset s.hw i = .none → s.hw.store.tablesWf →
            exec (.tableRead p args) s = .next (answered s p .tableRead .ok (shown ++ [0]) s.hw))
          ∧ (∀ bit, wordUpset s.hw i = .single bit → ∃ t : Hw,
            exec (.tableRead p args) s
              = .next (answered s p .tableRead .ok (shown ++ [1] ++ bytes4 (wordData s.hw i).toNat) t)
            ∧ Follows s.hw t ∧ wordUpset t i = .none ∧ wordData t i = wordData s.hw i
            ∧ t.integ.corrections = raised s.hw.integ.corrections)
          ∧ ∀ bit other, wordUpset s.hw i = .double bit other → ∃ t : Hw,
            exec (.tableRead p args) s = .next (answered s p .tableRead .ok (shown ++ [2]) t) ∧ Follows s.hw t
            ∧ doubleTaken s.hw t i))
    ∧ ∀ c : Fin 4,
      bytes4 (wordData s.hw (4362 + 3 * c.val)).toNat
        = [flagBits [(channelOf s.hw c).low.val.set.loop, (channelOf s.hw c).low.val.set.leak,
            (channelOf s.hw c).low.val.set.cap], (channelOf s.hw c).low.val.loopMax]
          ++ bytes2 (channelOf s.hw c).low.val.leakMin.toNat
      ∧ bytes4 (wordData s.hw (4363 + 3 * c.val)).toNat
        = [(channelOf s.hw c).high.val.capMin, (channelOf s.hw c).high.val.capMax,
            (channelOf s.hw c).high.val.foreignMax, BitVec.ofNat 8 (channelOf s.hw c).high.val.number.val]

/-! ### Stages and tones -/

namespace Sys2Proof.Machine

/-- The foreign limit of a request (R121). -/
def TestJob.limit : TestJob → Nat
  | .verify copy _ => copy.high.foreignMax.toNat
  | .measure | .tone _ => 60

/-- The command of a request. -/
def TestJob.cmd : TestJob → TestCmd
  | .measure => .measure
  | .verify _ _ => .verify
  | .tone _ => .tone

/-- What a VERIFY judges by its profile copy (R134); no other command sets flags. -/
def TestJob.judges (j : TestJob) (f : Profile → Bool) : Bool :=
  match j with
  | .verify copy _ => f copy
  | .measure | .tone _ => false

/-- A record with the readings of a stage, and the flags they set (R120 to R122, R134). -/
def ResultRecord.noted (r : ResultRecord) (st : Stage) (j : TestJob) (v : Readings) : ResultRecord :=
  match st with
  | .foreign => { r with
      foreign := some v.foreign
      flags := { r.flags with
        foreignHigh := r.flags.foreignHigh || j.judges fun c => decide (c.high.foreignMax.toNat < v.foreign.toNat) } }
  | .loop => { r with
      loop := some (if v.loop ≤ 9999 then .value v.loop else .over)
      flags := { r.flags with
        loopHigh := r.flags.loopHigh || j.judges fun c => decide (9999 < v.loop ∨ c.low.loopMax.toNat * 10 < v.loop) } }
  | .leak => { r with
      leakA := some (if v.leakA ≤ 65534 then .value v.leakA else .over)
      leakB := some (if v.leakB ≤ 65534 then .value v.leakB else .over)
      flags := { r.flags with
        leakALow := r.flags.leakALow
          || j.judges fun c => decide (v.leakA ≤ 65534 ∧ v.leakA < c.low.leakMin.toNat)
        leakBLow := r.flags.leakBLow
          || j.judges fun c => decide (v.leakB ≤ 65534 ∧ v.leakB < c.low.leakMin.toNat) } }
  | .cap => { r with
      cap := some (if v.cap ≤ 2000 then .value v.cap else .over)
      flags := { r.flags with
        capLow := r.flags.capLow || j.judges fun c => decide (v.cap ≤ 2000 ∧ v.cap < c.high.capMin.toNat * 10)
        capHigh := r.flags.capHigh || j.judges fun c => decide (2000 < v.cap ∨ c.high.capMax.toNat * 10 < v.cap) } }

/-- The stage of a set that follows one, with its duration in ms (R120). -/
def MeasSet.next (s : MeasSet) : Stage → Option (Stage × Nat)
  | .foreign =>
    if s.loop then some (.loop, 120) else if s.leak then some (.leak, 300) else if s.cap then some (.cap, 200) else none
  | .loop => if s.leak then some (.leak, 300) else if s.cap then some (.cap, 200) else none
  | .leak => if s.cap then some (.cap, 200) else none
  | .cap => none

/-- The front request of bus k has ended (R137): its record is closed, a MEASURE or VERIFY has written the summary, DONE or
ABORTED is posted, the bus is READY, and the next request has started. -/
def frontEnded (h t : Hw) (k : BusId) (rec : ResultRecord) (st : ResultStatus) (e : Option ErrorKind) (v : Verdict)
    (rest : List TestRequest) : Prop :=
  resultOf t k = { rec with status := st, error := e, verdict := v, closedAt := some h.seconds }
  ∧ (∀ n, storedPair t n = if rec.pair = some n ∧ rec.command ≠ some .tone ∧ isPoisoned h n = false
      then afterSummary h n v (rec.profile.map Prod.fst) else storedPair h n)
  ∧ busRecord t k = readied h k ∧ frontStarts t.meas rest ∧ t.meas.tones.get k = none
  ∧ (∀ q, (eventsOf h q).enable[busGroup k] = true →
      t.flag q (busGroup k) (match st with | .done => 1 | .none | .running | .aborted => 2) = true)
  ∧ Follows h t

end Sys2Proof.Machine

/-- R119 to R122, R134, R135 and R137: the expiry of the stage timer records the stage's readings, with the flags of a
VERIFY, and the request goes on: a reading above the foreign limit, or a capacitance above 2000 nF, ends it ABORTED; a
TONE turns on and leaves the FIFO; the next stage of the set starts; or it is DONE with PASS or FAIL. The expiry of a
tone's time completes the TONE. The bus's record is taken to be its request's, and the pair's stored part undamaged.
That a TONE records no verdict is the model's reading (log 28). -/
def Obligations.StagesRecordReadingsAndEndRequests : Prop :=
  ∀ s : State, s.hw.requests = [] →
    (∀ v, s.hw.meas.stageTimer = none → exec (.stageTimerExpiry v) s = .next s)
    ∧ (∀ (v : Readings) (r : TestRequest) (rest : List TestRequest) (st : Stage) (rec : ResultRecord),
        s.hw.meas.stageTimer.isSome = true → s.hw.meas.fifo = r :: rest → (∀ x ∈ rest, x.bus ≠ r.bus) →
        s.hw.meas.stage = some st → (resultOf s.hw r.bus).pair = some r.pair →
        (resultOf s.hw r.bus).command = some r.job.cmd → s.hw.undamaged r.pair →
        rec = (resultOf s.hw r.bus).noted st r.job v →
        (st = .foreign → r.job.limit < v.foreign.toNat → ∃ t : Hw,
          exec (.stageTimerExpiry v) s = .next { s with hw := t }
          ∧ frontEnded s.hw t r.bus rec .aborted (some .foreign) (if r.job.cmd = .tone then .none else .error) rest)
        ∧ (st = .cap → 2000 < v.cap → ∃ t : Hw, exec (.stageTimerExpiry v) s = .next { s with hw := t }
          ∧ frontEnded s.hw t r.bus rec .aborted (some .overRange) (if r.job.cmd = .tone then .none else .error) rest)
        ∧ (st = .foreign → v.foreign.toNat ≤ r.job.limit → ∀ seconds, r.job = .tone seconds → ∃ m : Measurement,
          exec (.stageTimerExpiry v) s = .next { s with hw := { s.hw with meas := m } } ∧ frontStarts m rest
          ∧ m.tones = s.hw.meas.tones.set r.bus (some (seconds * 1000))
          ∧ m.results = s.hw.meas.results.set r.bus rec ∧ m.channels = s.hw.meas.channels)
        ∧ ((st = .foreign → v.foreign.toNat ≤ r.job.limit ∧ r.job.cmd ≠ .tone) → (st = .cap → v.cap ≤ 2000) →
          (∀ next ms, r.set.next st = some (next, ms) → exec (.stageTimerExpiry v) s = .next { s with hw := { s.hw with
            meas := { s.hw.meas with
              results := s.hw.meas.results.set r.bus rec
              stage := some next, stageTimer := some ms, setup := some (r.bus, next) } } })
          ∧ (r.set.next st = none → ∃ t : Hw, exec (.stageTimerExpiry v) s = .next { s with hw := t }
            ∧ frontEnded s.hw t r.bus rec .done none
              (if rec.flags = ⟨false, false, false, false, false, false⟩ then .pass else .fail) rest)))
    ∧ ∀ k : BusId, (s.hw.meas.tones.get k = none → exec (.toneExpiry k) s = .next s)
        ∧ ((s.hw.meas.tones.get k).isSome = true → (resultOf s.hw k).command = some .tone →
          (∀ x ∈ s.hw.meas.fifo, x.bus ≠ k) → exec (.toneExpiry k) s = .next (withHw s (post (.done k)
            (setBus k (readied s.hw k) { s.hw with meas := { s.hw.meas with
              tones := s.hw.meas.tones.set k none
              results := s.hw.meas.results.set k { resultOf s.hw k with
                status := .done, error := none, verdict := .none, closedAt := some s.hw.seconds } } }))))

/-! ### The sense inputs -/

/-- R149: SET SENSE, every answer and effect: FAULT, MISSING, RANGE; each setting given takes its value; a filter enable or
sample period given, differing or not, empties the run and restarts the timer; a trigger given whose condition holds sets
the flag (R148); nothing else changes. A port other than SUP that frames it is answered DENIED. -/
def Obligations.SetSenseSetsInput : Prop :=
  (∀ (p : Port) (s : State), p ≠ .sup → (portOf s.hw p).state = .collecting →
    (portOf s.hw p).frame = ⟨some 0x40, none, []⟩ → (portOf s.hw p).answer = none →
    ∃ u, exec (.frameByteWrite p 0) s = .next (withPort s p u) ∧ u.repliesPlain 0x40 0x03)
  ∧ (∀ (p : Port) (args : List Byte) (s : State), Waits s p .setSense args → s.hw.integ.faultHold = true →
    exec (.setSense p args) s = .next (answered s p .setSense .fault [] s.hw))
  ∧ ∀ (p : Port) (args : List Byte) (s : State), Waits s p .setSense args → s.hw.integ.faultHold = false →
    (args = [] → exec (.setSense p args) s = .next (answered s p .setSense .missing [] s.hw))
    ∧ (∀ (a : Byte) rest, args = a :: rest →
        (11 < a.toNat ∨ (∃ b, rest[0]? = some b ∧ 1 < b.toNat)
          ∨ (∃ b, rest[1]? = some b ∧ b ≠ 1 ∧ b ≠ 4 ∧ b ≠ 16 ∧ b ≠ 64) ∨ ∃ b, rest[2]? = some b ∧ 4 < b.toNat) →
        exec (.setSense p args) s = .next (answered s p .setSense .range [] s.hw))
    ∧ ∀ (i : SenseIx) (rest : List Byte) (filter : Bool) (period : SamplePeriod) (trigger : Trigger)
        (x : SenseInput) (h : Hw),
        args = BitVec.ofNat 8 i.val :: rest →
        ((rest[0]? = none ∧ filter = s.hw.sense[i].filter) ∨ rest[0]? = some (if filter then 1 else 0)) →
        ((rest[1]? = none ∧ period = s.hw.sense[i].period) ∨ rest[1]? = some (encodePeriod period)) →
        ((rest[2]? = none ∧ trigger = s.hw.sense[i].trigger) ∨ rest[2]? = some (encodeTrigger trigger)) →
        x = (if rest[0]? = none ∧ rest[1]? = none then { s.hw.sense[i] with trigger }
          else { s.hw.sense[i] with filter, period, trigger, run := none, timer := periodMs period }) →
        h = { s.hw with sense := s.hw.sense.set i x } →
        exec (.setSense p args) s = .next (answered s p .setSense .ok
          [if filter then 1 else 0, encodePeriod period, encodeTrigger trigger, encodeLevel s.hw.sense[i].accepted]
          (if (rest[2]?).isSome = true ∧ ((trigger = .high ∧ s.hw.sense[i].accepted = .high)
              ∨ (trigger = .low ∧ s.hw.sense[i].accepted = .low)) then post (senseFlag i) h else h))

namespace Sys2Proof.Machine

/-- The battery mode by the comparators (R153). -/
def batteryBy (l c : Level) : PowerMode :=
  if c = .high then .critical else if l = .high then .low else .battery

/-- The power mode after a report of SNS0, SNS1 or SNS2 (R154 to R157). -/
def modeAfter (u : Power) (i : SenseIx) (new : Level) : PowerMode :=
  let l := if i = 1 then new else u.lowLevel
  let c := if i = 2 then new else u.criticalLevel
  if i = 0 then
    match u.mode with
    | .start => if new = .high then .mains else batteryBy l c
    | .mains =>
      if new = .high then .mains
      else if u.graceTime = 0 ∨ l = .high ∨ c = .high then batteryBy l c else .bridge
    | .bridge => if new = .high then .mains else .bridge
    | .battery | .low | .critical =>
      if new = .high then (if u.restoreDelay = 0 then .mains else .return) else u.mode
    | .return => if new = .high then .return else batteryBy l c
  else
    match u.mode with
    | .bridge => if new = .high then batteryBy l c else .bridge
    | .battery | .low | .critical => batteryBy l c
    | .start | .mains | .return => u.mode

/-- The cap of a stepping mode (R158). -/
def stepCap (m : PowerMode) (thermal : Level) : Option Nat :=
  match m with
  | .mains => some (if thermal = .high then 2 else 4)
  | .battery => some (if thermal = .high then 2 else 3)
  | .low => some 2
  | .critical => some 1
  | .start | .bridge | .return => none

/-- The floor and the step timer after a step start under a cap, the floor having fallen to it first (R159). -/
def stepStarted (h t : Hw) (c : Nat) : Prop :=
  t.power.floor = (if c < h.power.floor then c else if h.power.floor < c then h.power.floor + 1 else h.power.floor)
  ∧ t.power.stepTimer = (if h.power.floor + 1 < c then some (h.power.stepInterval * 1000) else none)

/-- FLOOR is posted when the floor has changed; power follows tier and service where it did before, and a pair whose power
or line power has changed has a notice at every port (R7, R14, R153, R161); the queues of a pair that is no longer
queue-eligible are empty (R10, R33). -/
def floorShown (h t : Hw) : Prop :=
  (t.power.floor ≠ h.power.floor → ∀ q, (eventsOf h q).enable[(1 : Fin 8)] = true → t.flag q 1 4 = true)
  ∧ (h.powerSound → t.powerSound) ∧ shedEmptied h t
  ∧ ∀ n : PairIx, (t.power.pairs[n].powered ≠ h.power.pairs[n].powered ∨ t.power.pairs[n].line ≠ h.power.pairs[n].line) →
      ∀ q, n ∈ t.pairTable.notices.get q

/-- The power mode has changed to m (R153, R155, R156, R158 to R160, R163): the mode since, MODE, the timers of the mode,
the floor; and after an entry to LOW or CRITICAL no bus has a selection or a command, or is READY. -/
def entered (h t : Hw) (m : PowerMode) : Prop :=
  t.power.mode = m ∧ t.power.modeSince = h.seconds
  ∧ (∀ q, (eventsOf h q).enable[(1 : Fin 8)] = true → t.flag q 1 3 = true)
  ∧ t.power.graceTimer = (if m = .bridge then some (h.power.graceTime * 1000) else none)
  ∧ t.power.restoreTimer = (if m = .return then some (h.power.restoreDelay * 1000) else none)
  ∧ (∀ c, stepCap m h.power.thermalLevel = some c → stepStarted h t c)
  ∧ (stepCap m h.power.thermalLevel = none → t.power.floor = h.power.floor ∧ t.power.stepTimer = none)
  ∧ floorShown h t
  ∧ ((m = .low ∨ m = .critical) → ∀ k, (busRecord t k).state ≠ .selecting ∧ (busRecord t k).state ≠ .ready
      ∧ (busRecord t k).state ≠ .busy)

end Sys2Proof.Machine

/-- R142 to R148, R79, R93, R94, R153 to R160: the expiry of an input's sample timer. Every sample is recorded and restarts
the timer. One that equals the accepted level empties the run; one that differs counts in the run while the filter is ON,
and is accepted as the third in a row, or at once with the filter OFF. An acceptance is recorded, posts the flag as the
trigger requires, and reaches the input's consumer: the mode machine, the cap, the guards of a block, or transmit
permission. R112: a surge onset leaves HELD at once each bus that has a pair of the block, its work in hand ended with
SURGE, the stored parts being undamaged. R93: the move to ISOLATED is requested for every pair of the block, and each guard
that changes, and each move that starts, is one change of its record. That an aborted SELECT or TONE takes no verdict, and
that such a change writes the first word without reading it, is the model's reading (log 28, log 10). -/
def Obligations.SampleTimerAcceptsLevels : Prop :=
  ∀ (i : SenseIx) (pin tready : Bool) (s : State) (x : SenseInput) (level : Level), s.hw.requests = [] →
    x = { s.hw.sense[i] with lastSample := some pin, timer := periodMs s.hw.sense[i].period } →
    level = (if pin then .high else .low) →
    (x.accepted = level → exec (.sampleTimerExpiry i pin tready) s
      = .next { s with hw := { s.hw with sense := s.hw.sense.set i { x with run := none } } })
    ∧ (x.accepted ≠ level → x.filter = true → (x.run = none ∨ ∃ second, x.run = some ⟨!pin, second⟩) →
      exec (.sampleTimerExpiry i pin tready) s
        = .next { s with hw := { s.hw with sense := s.hw.sense.set i { x with run := some ⟨pin, false⟩ } } })
    ∧ (x.accepted ≠ level → x.filter = true → x.run = some ⟨pin, false⟩ →
      exec (.sampleTimerExpiry i pin tready) s
        = .next { s with hw := { s.hw with sense := s.hw.sense.set i { x with run := some ⟨pin, true⟩ } } })
    ∧ (x.accepted ≠ level → (x.filter = false ∨ x.run = some ⟨pin, true⟩) →
      ∃ t : Hw, exec (.sampleTimerExpiry i pin tready) s = .next { s with hw := t }
        ∧ t.sense = s.hw.sense.set i { x with run := none, accepted := level }
        ∧ t.seconds = s.hw.seconds ∧ t.ports = s.hw.ports
        ∧ ((x.trigger = .both ∨ (level = .high ∧ (x.trigger = .rising ∨ x.trigger = .high))
            ∨ (level = .low ∧ (x.trigger = .falling ∨ x.trigger = .low))) →
          ∀ q, (eventsOf s.hw q).enable[(senseFlag i).group] = true →
            t.flag q (senseFlag i).group (senseFlag i).bit = true)
        ∧ (i.val ≤ 2 →
          t.power.mainsLevel = (if i = 0 then level else s.hw.power.mainsLevel)
          ∧ t.power.lowLevel = (if i = 1 then level else s.hw.power.lowLevel)
          ∧ t.power.criticalLevel = (if i = 2 then level else s.hw.power.criticalLevel)
          ∧ (modeAfter s.hw.power i level = s.hw.power.mode →
              t.power.mode = s.hw.power.mode ∧ t.power.floor = s.hw.power.floor ∧ t.power.pairs = s.hw.power.pairs)
          ∧ (modeAfter s.hw.power i level ≠ s.hw.power.mode → entered s.hw t (modeAfter s.hw.power i level)))
        ∧ (i = 5 → t.power.thermalLevel = level ∧ t.power.mode = s.hw.power.mode ∧ floorShown s.hw t
          ∧ (level = .high → s.hw.power.thermalLevel ≠ .high → s.hw.power.mode ≠ .start → s.hw.power.mode ≠ .low →
              s.hw.power.mode ≠ .critical → t.power.floor = min s.hw.power.floor 2)
          ∧ (level = .low → s.hw.power.thermalLevel = .high → ∀ c, stepCap s.hw.power.mode .low = some c → 2 < c →
              s.hw.power.floor ≤ 2 → stepStarted s.hw t c))
        ∧ (∀ b : BlockIx, i.val = 6 + b.val → t.relay.surgeLevels = s.hw.relay.surgeLevels.set b level
          ∧ (level = .high → t.relay.guardTimers = s.hw.relay.guardTimers.set b none
            ∧ ∀ n : PairIx, t.relay.pairs[n].guard
              = if n.val / 6 = b.val ∧ s.hw.relay.pairs[n].guard = .none then .surge else s.hw.relay.pairs[n].guard)
          ∧ (level = .high → s.hw.pairsGood → ∀ (k : BusId) (n : PairIx), (busRecord s.hw k).pair = some n →
            n.val / 6 = b.val → s.hw.relay.pairs[n].guard = .none →
            (∀ j, j ≠ k → (busRecord s.hw j).pair ≠ some n) → heldAfterAbort s.hw t k .surge)
          ∧ (level = .high → s.hw.pairsGood → s.hw.relay.queueGood → ∀ n : PairIx, n.val / 6 = b.val →
            t.relay.asked n .isolated .relayUnit)
          ∧ (level = .high → (∀ (k : BusId) (n : PairIx), (busRecord s.hw k).pair = some n → n.val / 6 ≠ b.val) →
            s.hw.recordsStepped t (fun n => t.relay.pairs[n].guard != s.hw.relay.pairs[n].guard))
          ∧ (level = .low → t.relay.pairs = s.hw.relay.pairs ∧ t.relay.guardTimers
              = if x.accepted = .high ∧ s.hw.relay.guardTime ≠ 0
                then s.hw.relay.guardTimers.set b (some (s.hw.relay.guardTime * 1000)) else s.hw.relay.guardTimers))
        ∧ (i = 10 → (tready = false ∨ level = .high ∨ s.hw.trunk.permitted = true) → t.trunk = { s.hw.trunk with
            permitted := s.hw.trunk.transmitEnable && s.hw.trunk.delineation == .locked && level != .high
              && !s.hw.integ.faultHold })
        ∧ ((i = 3 ∨ i = 4 ∨ i = 11) → t = { s.hw with sense := t.sense, events := t.events }))

/-! ### The power unit -/

/-- R153, R155, R157 to R159: the expiry of the grace timer ends BRIDGE in the battery mode by the comparators, that of the
restore timer ends RETURN in MAINS, and that of the step timer raises a floor below the cap by one, and starts again while
the floor is still below it. A timer that is stopped does not expire. -/
def Obligations.PowerTimersMoveModeAndFloor : Prop :=
  ∀ s : State, s.hw.requests = [] →
    (s.hw.power.graceTimer = none → exec .graceTimerExpiry s = .next s)
    ∧ (s.hw.power.restoreTimer = none → exec .restoreTimerExpiry s = .next s)
    ∧ (s.hw.power.stepTimer = none → exec .stepTimerExpiry s = .next s)
    ∧ (s.hw.power.graceTimer.isSome = true → s.hw.power.mode = .bridge →
      ∃ t : Hw, exec .graceTimerExpiry s = .next { s with hw := t }
        ∧ entered s.hw t (batteryBy s.hw.power.lowLevel s.hw.power.criticalLevel))
    ∧ (s.hw.power.restoreTimer.isSome = true → s.hw.power.mode = .return →
      ∃ t : Hw, exec .restoreTimerExpiry s = .next { s with hw := t } ∧ entered s.hw t .mains)
    ∧ ∀ c, s.hw.power.stepTimer.isSome = true → stepCap s.hw.power.mode s.hw.power.thermalLevel = some c →
      s.hw.power.floor < c →
      ∃ t : Hw, exec .stepTimerExpiry s = .next { s with hw := t } ∧ t.power.mode = s.hw.power.mode
        ∧ stepStarted s.hw t c ∧ floorShown s.hw t

/-! ### The scrubber and RESET PART -/

/-- R12, R37, R39 to R42, R127, R167 to R170 and R172: the expiry of the scrub timer reads the word at the cursor. The
cursor goes on and wraps, a pass that starts or ends moves the gate, a pass end counts, publishes the stranded count and
posts SCRUB_PASS, and the timer starts again at the interval. A word that is GOOD changes nothing more, but that a stale
owner word is reclaimed onto the free list; a word with one upset bit is corrected; one with two is taken as its area gives
and recorded: a pair's record is poisoned, with all that R12 has follow, a queue breaks, a GENERATION word enters FAULT
HOLD, a cell is retired, a link word is handled as the owner word of its cell gives, a channel is poisoned. The sparse
tables are taken to be in their canonical form. A timer that is stopped does not expire. That a break by a link word or by
one descriptor word writes all three words, read or not, is the model's choice (log 44, log 55); that a change of a record
which follows writes the first word without reading it is its reading (log 10). -/
def Obligations.ScrubTimerReadsWordsInTurn : Prop :=
  ∀ s : State, s.hw.requests = [] →
    (s.hw.integ.scrubTimer = none → exec .scrubTimerExpiry s = .next s)
    ∧ ∀ i : Nat, s.hw.integ.scrubTimer.isSome = true → s.hw.integ.cursor = i → i < 4373 → s.hw.store.tablesWf →
      ∃ t : Hw, exec .scrubTimerExpiry s = .next { s with hw := t }
        ∧ t.integ.cursor = (if i = 4372 then 0 else i + 1)
        ∧ t.integ.passCount = (if i = 4372 then s.hw.integ.passCount + 1 else s.hw.integ.passCount)
        ∧ t.integ.scrubInterval = s.hw.integ.scrubInterval
        ∧ t.integ.scrubTimer = (if s.hw.integ.scrubInterval = 0 then none else some s.hw.integ.scrubInterval)
        ∧ (i = 4372 → t.store.stranded = s.hw.store.passReclaimed ∧ t.store.passReclaimed = 0
            ∧ ∀ q, (eventsOf s.hw q).enable[(6 : Fin 8)] = true → t.flag q 6 4 = true)
        ∧ (wordUpset s.hw i = .none → t.integ = { s.hw.integ with
              gate := if i = 0 ∧ s.hw.integ.gate = .waiting then .inPass
                else if i = 4372 ∧ s.hw.integ.gate = .inPass then .satisfied else s.hw.integ.gate
              cursor := t.integ.cursor, passCount := t.integ.passCount, scrubTimer := t.integ.scrubTimer }
            ∨ (265 ≤ i ∧ i < 2313))
        ∧ (wordUpset s.hw i = .none → (i < 265 ∨ 2313 ≤ i) → i ≠ 4372 → t = { s.hw with integ := t.integ })
        ∧ (∀ bit, wordUpset s.hw i = .single bit → (i < 265 ∨ 2313 ≤ i) → wordUpset t i = .none
            ∧ wordData t i = wordData s.hw i ∧ t.integ.corrections = raised s.hw.integ.corrections)
        ∧ (∀ bit other, wordUpset s.hw i = .double bit other → doubleTaken s.hw t i)
        ∧ ∀ c : CellIx, i = 265 + c.val → s.hw.store.freeGeneration.upset = .none →
          (∀ q g, s.hw.store.owner c = ⟨.queue q g, .none⟩ → s.hw.store.generations[q].upset = .none →
            (g = s.hw.store.generations[q].val → t.store = s.hw.store)
            ∧ (g ≠ s.hw.store.generations[q].val → s.hw.store.pushed c t.store
              ∧ t.store.passReclaimed = s.hw.store.passReclaimed + 1))
          ∧ (∀ g, s.hw.store.owner c = ⟨.free g, .none⟩ →
            (g = s.hw.store.freeGeneration.val → t.store = s.hw.store)
            ∧ (g ≠ s.hw.store.freeGeneration.val → s.hw.store.pushed c t.store
              ∧ t.store.passReclaimed = s.hw.store.passReclaimed + 1))
          ∧ ((s.hw.store.owner c = ⟨.held, .none⟩ ∨ s.hw.store.owner c = ⟨.retired, .none⟩) → t.store = s.hw.store)

/-- R24, R49, R59, R66, R84, R101, R117, R141, R178, R179 and R186: RESET PART, in FAULT HOLD or not. FAULT HOLD is left,
poisoned records are rebuilt and the others keep their stored values, the buses are free, the cell store is rebuilt, the
trunk is in SEARCH, every port is cleared, its buffers empty, and holds all 24 notices, and the answer is the first thing
its port reads; of the pending flags of a port those of the enabled groups stand whose condition holds, the level-triggered
sense flags (R151) and NOTICE, and no other; the settings, the mode and the floor, the positions and guards of the relays,
the sense inputs and the time stand. R101: the requester of every entry and move becomes the relay unit; a return move is
requested for each pair on a bus or bound for one, the other entries being kept, and each start is one change of its record
after that of R24. What the reads count, and what stands that no rule names, is the model's reading (log 19, log 25); that
the answer carries no data is its choice (log 22). -/
def Obligations.ResetPartClearsPart : Prop :=
  ∀ (p : Port) (args : List Byte) (s : State), Waits s p .resetPart args →
    ∃ t : State, exec (.resetPart p args) s = .next t ∧ t.pending = s.pending ∧ t.hw.requests = []
      ∧ (∀ q, portOf t.hw q = ⟨if q = p then .answer else .idle, ⟨none, none, []⟩,
          if q = p then some ⟨[0x54, 0, 0], 0⟩ else none, false, false, false, none, none, none, none,
          (portOf s.hw q).dataOut⟩)
      ∧ (∀ q, (eventsOf t.hw q).config = (eventsOf s.hw q).config ∧ t.hw.pairTable.notices.get q = List.finRange 24)
      ∧ (∀ q, ∀ g : Fin 8, (eventsOf t.hw q).pending[g] = if (eventsOf s.hw q).enable[g]
          then senseConditions s.hw g ||| (if g = 7 then 1 else 0) else 0)
      ∧ t.hw.integ = ⟨Vector.replicate 24 false, 0, none, .none, false, none, s.hw.integ.scrubInterval,
          if s.hw.integ.scrubInterval = 0 then none else some s.hw.integ.scrubInterval, 0, 0⟩
      ∧ t.hw.meas = ⟨[], none, none, ⟨none, none⟩, ⟨.cleared, .cleared⟩, s.hw.meas.channels, none⟩
      ∧ t.hw.testBus = { s.hw.testBus with
          bus := ⟨⟨.free, none, [], none, none, none, none⟩, ⟨.free, none, [], none, none, none, none⟩⟩ }
      ∧ (∀ q : QueueIx, t.hw.store.descriptors[q] = (if s.hw.store.descriptors[q].upset0.outcome = .uncorrectable
              ∨ s.hw.store.descriptors[q].upset1.outcome = .uncorrectable
              ∨ s.hw.store.descriptors[q].upset2.outcome = .uncorrectable
            then ⟨⟨none, none, 0, 64, 48, 0, none⟩, .none, .none, .none⟩
            else ⟨⟨none, none, 0, s.hw.store.descriptors[q].fields.limit, s.hw.store.descriptors[q].fields.highMark, 0,
              none⟩, .none, .none, .none⟩)
          ∧ t.hw.store.generations[q] = ⟨0, .none⟩ ∧ t.hw.store.congested[q] = false)
      ∧ (∀ c : CellIx, t.hw.store.owner c = ⟨.free 0, .none⟩) ∧ t.hw.store.freeHead = some 0
      ∧ t.hw.store.freeCount = 2048 ∧ t.hw.store.holds = ⟨none, none, none, none⟩ ∧ t.hw.store.retired = []
      ∧ t.hw.store.payload = s.hw.store.payload
      ∧ t.hw.trunk.delineation = .search ∧ t.hw.trunk.window = [] ∧ t.hw.trunk.position = 0
      ∧ t.hw.trunk.silence = none ∧ t.hw.trunk.doneTimer = none ∧ t.hw.trunk.sending = none
      ∧ t.hw.trunk.headerErrors = 0 ∧ t.hw.trunk.lockLosses = 0 ∧ t.hw.trunk.doneTimeouts = 0
      ∧ t.hw.trunk.transmitEnable = s.hw.trunk.transmitEnable ∧ t.hw.trunk.permitted = false
      ∧ t.hw.line.pollPtr = 0 ∧ t.hw.line.activity = s.hw.line.activity
      ∧ t.hw.sched.credit = Vector.replicate 24 0 ∧ t.hw.sched.urgentPtr = 0 ∧ t.hw.sched.tier0Ptr = 0
      ∧ t.hw.sched.roundPtr = 0
      ∧ (∀ n : PairIx, t.hw.line.eligible[n] = exchangeEligible t.hw n
          ∧ t.hw.sched.eligible[n] = exchangeEligible t.hw n)
      ∧ t.hw.seconds = s.hw.seconds ∧ t.hw.sense = s.hw.sense
      ∧ t.hw.power = { s.hw.power with pairs := t.hw.power.pairs }
      ∧ t.hw.relay.guardTimers = s.hw.relay.guardTimers ∧ t.hw.relay.surgeLevels = s.hw.relay.surgeLevels
      ∧ t.hw.relay.settleTime = s.hw.relay.settleTime ∧ t.hw.relay.guardTime = s.hw.relay.guardTime
      ∧ (∀ n : PairIx, t.hw.relay.pairs[n].pos = s.hw.relay.pairs[n].pos
          ∧ t.hw.relay.pairs[n].guard = s.hw.relay.pairs[n].guard)
      ∧ (∀ n : PairIx, (isPoisoned s.hw n = true →
            storedPair t.hw n = ⟨⟨⟨.disabled, 3, 1, BitVec.ofNat 16
              ((if t.hw.power.pairs[n].powered = s.hw.power.pairs[n].powered
                  ∧ t.hw.power.pairs[n].line = s.hw.power.pairs[n].line then 0 else 1)
                + if t.hw.relay.pairs[n].moving = s.hw.relay.pairs[n].moving then 0 else 1)⟩, .none⟩,
              ⟨⟨.none, none⟩, .none⟩, ⟨0, .none⟩⟩)
          ∧ (isPoisoned s.hw n = false → s.hw.undamaged n →
            storedPair t.hw n = { storedPair s.hw n with first := ⟨{ (storedPair s.hw n).first.val with
              version := (storedPair s.hw n).first.val.version + 1
                + if t.hw.relay.pairs[n].moving = s.hw.relay.pairs[n].moving then 0 else 1 }, .none⟩ }))
      ∧ (∀ e ∈ t.hw.relay.entries, e.requester = .relayUnit)
      ∧ (∀ (i : SlotIx) (m : Move), t.hw.relay.slots[i] = some m → m.requester = .relayUnit)
      ∧ (∀ (i : SlotIx) (m : Move), s.hw.relay.slots[i] = some m →
          t.hw.relay.slots[i] = some { m with requester := .relayUnit })
      ∧ (s.hw.relay.queueGood →
          (∀ (n : PairIx) (k : BusId), s.hw.relay.boundFor n k →
            t.hw.relay.asked n (if s.hw.relay.pairs[n].guard = .none then .through else .isolated) .relayUnit)
          ∧ ∀ e ∈ s.hw.relay.entries, (∀ k, ¬ s.hw.relay.boundFor e.pair k) →
            t.hw.relay.asked e.pair e.target .relayUnit)
      ∧ (s.hw.powerSound → t.hw.powerSound) ∧ (s.hw.relay.sound → t.hw.relay.sound)

/-! ### What every step keeps -/

namespace Sys2Proof.Machine

/-- The tables of the part are well formed: the sparse tables of the cell store are canonical, each notice queue holds each
pair at most once, the two eligible sets agree and hold exactly the exchange-eligible pairs, the queues of a pair that is
not queue-eligible are empty, the wait lists are orderly, a bus has a pair in SELECTING, READY and BUSY alone, group 0 is ON
at level 0 at every port, and the settings and the scrub cursor are within their ranges. -/
def Hw.tablesSound (h : Hw) : Prop :=
  h.store.wf ∧ h.noticesOnce ∧ h.eligibleAgree ∧ h.exchangeShown ∧ h.shedEmpty ∧ h.orderly ∧ h.pairsAtWork ∧ h.groupZero
    ∧ h.inRange

end Sys2Proof.Machine

/-- The machine right after reset has every invariant. -/
def Obligations.ResetHasEveryInvariant : Prop :=
  State.reset.hw.tablesSound ∧ State.reset.hw.powerSound ∧ State.reset.hw.relay.sound
    ∧ State.reset.hw.portsCoherent ∧ State.reset.hw.busesCoherent ∧ State.reset.hw.requests = []

/-- R10, R11, R16, R50, R65, R98, R102, R103, R116, R164, R167, R187 and R190: every step keeps the tables well formed:
the sparse tables of the cell store in their canonical form, each pair at most once on a notice queue, both eligible sets
holding exactly the exchange-eligible pairs, so that a pair that becomes eligible joins them and one that ceases to be leaves
them in the same step, both queues of a pair that is not queue-eligible empty, the wait lists orderly, a pair on a bus in
SELECTING, READY and BUSY alone, group 0 ON at level 0 at every port, and the settings and the scrub cursor within their
ranges. -/
def Obligations.StepKeepsTablesSound : Prop :=
  ∀ s t : State, step s = .next t → s.hw.tablesSound → t.hw.tablesSound

/-- R4, R7, R161 and R162: every step keeps power and line power following tier, floor and service, but while the power
unit holds them for a poisoned record. -/
def Obligations.StepKeepsPowerFollowingTier : Prop :=
  ∀ s t : State, step s = .next t → s.hw.powerSound → t.hw.powerSound

/-- R85, R86 and R89: no step puts two pairs on one test bus, or binds a second pair for it. -/
def Obligations.StepKeepsOnePairOnBus : Prop :=
  ∀ s t : State, step s = .next t → s.hw.relay.sound → t.hw.relay.sound

/-- R102, R106, R107 and R111: every step keeps the state of each bus in agreement with its fields: a pair in SELECTING,
READY and BUSY alone, a departing pair in DESELECTING alone, a holder in every state but FREE and perhaps DESELECTING, the
lease running in HELD and READY alone and the hold in READY alone; a bus is BUSY exactly while a command of it stands in
the FIFO or in its tone; and no pair is on both buses. -/
def Obligations.StepKeepsBusesCoherent : Prop :=
  ∀ s t : State, step s = .next t → s.hw.busesCoherent → s.hw.requests = [] → t.hw.busesCoherent

/-- R180 to R186: every step keeps the state of each port unit in agreement with its buffers, and takes every request that
it sends inside the part (log 12). -/
def Obligations.StepKeepsPortsCoherent : Prop :=
  ∀ s t : State, step s = .next t → s.hw.portsCoherent → s.hw.requests = [] →
    t.hw.portsCoherent ∧ t.hw.requests = []

/-- R42, R174 and R178: FAULT HOLD is left by a full reset and by RESET PART alone. -/
def Obligations.FaultHoldIsLeftByResetAlone : Prop :=
  ∀ s t : State, step s = .next t → s.hw.integ.faultHold = true →
    t.hw.integ.faultHold = true ∨ (∃ rest, s.pending = .fullReset :: rest)
    ∨ ∃ p args rest, s.pending = .resetPart p args :: rest ∧ (portOf s.hw p).passed = some ⟨.resetPart, args⟩
end

