-- ==== Sys2Proof/Laws/State.lean ====
section
/-! SUPPORT. What each update of the part leaves, field by field, and what it puts there. -/

namespace Sys2Proof.Machine

variable (h : Hw)

/-! setStored -/

@[simp] theorem setStored_seconds (n : PairIx) (x : StoredPair) : (setStored n x h).seconds = h.seconds := rfl
@[simp] theorem setStored_ports (n : PairIx) (x : StoredPair) : (setStored n x h).ports = h.ports := rfl
@[simp] theorem setStored_events (n : PairIx) (x : StoredPair) : (setStored n x h).events = h.events := rfl
@[simp] theorem setStored_store (n : PairIx) (x : StoredPair) : (setStored n x h).store = h.store := rfl
@[simp] theorem setStored_sched (n : PairIx) (x : StoredPair) : (setStored n x h).sched = h.sched := rfl
@[simp] theorem setStored_line (n : PairIx) (x : StoredPair) : (setStored n x h).line = h.line := rfl
@[simp] theorem setStored_trunk (n : PairIx) (x : StoredPair) : (setStored n x h).trunk = h.trunk := rfl
@[simp] theorem setStored_relay (n : PairIx) (x : StoredPair) : (setStored n x h).relay = h.relay := rfl
@[simp] theorem setStored_testBus (n : PairIx) (x : StoredPair) : (setStored n x h).testBus = h.testBus := rfl
@[simp] theorem setStored_meas (n : PairIx) (x : StoredPair) : (setStored n x h).meas = h.meas := rfl
@[simp] theorem setStored_sense (n : PairIx) (x : StoredPair) : (setStored n x h).sense = h.sense := rfl
@[simp] theorem setStored_power (n : PairIx) (x : StoredPair) : (setStored n x h).power = h.power := rfl
@[simp] theorem setStored_integ (n : PairIx) (x : StoredPair) : (setStored n x h).integ = h.integ := rfl
@[simp] theorem setStored_requests (n : PairIx) (x : StoredPair) : (setStored n x h).requests = h.requests := rfl

/-! writeFirst -/

@[simp] theorem writeFirst_seconds (n : PairIx) (w : ServiceWord) : (writeFirst n w h).seconds = h.seconds := rfl
@[simp] theorem writeFirst_ports (n : PairIx) (w : ServiceWord) : (writeFirst n w h).ports = h.ports := rfl
@[simp] theorem writeFirst_events (n : PairIx) (w : ServiceWord) : (writeFirst n w h).events = h.events := rfl
@[simp] theorem writeFirst_store (n : PairIx) (w : ServiceWord) : (writeFirst n w h).store = h.store := rfl
@[simp] theorem writeFirst_sched (n : PairIx) (w : ServiceWord) : (writeFirst n w h).sched = h.sched := rfl
@[simp] theorem writeFirst_line (n : PairIx) (w : ServiceWord) : (writeFirst n w h).line = h.line := rfl
@[simp] theorem writeFirst_trunk (n : PairIx) (w : ServiceWord) : (writeFirst n w h).trunk = h.trunk := rfl
@[simp] theorem writeFirst_relay (n : PairIx) (w : ServiceWord) : (writeFirst n w h).relay = h.relay := rfl
@[simp] theorem writeFirst_testBus (n : PairIx) (w : ServiceWord) : (writeFirst n w h).testBus = h.testBus := rfl
@[simp] theorem writeFirst_meas (n : PairIx) (w : ServiceWord) : (writeFirst n w h).meas = h.meas := rfl
@[simp] theorem writeFirst_sense (n : PairIx) (w : ServiceWord) : (writeFirst n w h).sense = h.sense := rfl
@[simp] theorem writeFirst_power (n : PairIx) (w : ServiceWord) : (writeFirst n w h).power = h.power := rfl
@[simp] theorem writeFirst_integ (n : PairIx) (w : ServiceWord) : (writeFirst n w h).integ = h.integ := rfl
@[simp] theorem writeFirst_requests (n : PairIx) (w : ServiceWord) : (writeFirst n w h).requests = h.requests := rfl

/-! setPowerPair -/

@[simp] theorem setPowerPair_seconds (n : PairIx) (x : PowerPair) : (setPowerPair n x h).seconds = h.seconds := rfl
@[simp] theorem setPowerPair_ports (n : PairIx) (x : PowerPair) : (setPowerPair n x h).ports = h.ports := rfl
@[simp] theorem setPowerPair_events (n : PairIx) (x : PowerPair) : (setPowerPair n x h).events = h.events := rfl
@[simp] theorem setPowerPair_pairTable (n : PairIx) (x : PowerPair) : (setPowerPair n x h).pairTable = h.pairTable := rfl
@[simp] theorem setPowerPair_store (n : PairIx) (x : PowerPair) : (setPowerPair n x h).store = h.store := rfl
@[simp] theorem setPowerPair_sched (n : PairIx) (x : PowerPair) : (setPowerPair n x h).sched = h.sched := rfl
@[simp] theorem setPowerPair_line (n : PairIx) (x : PowerPair) : (setPowerPair n x h).line = h.line := rfl
@[simp] theorem setPowerPair_trunk (n : PairIx) (x : PowerPair) : (setPowerPair n x h).trunk = h.trunk := rfl
@[simp] theorem setPowerPair_relay (n : PairIx) (x : PowerPair) : (setPowerPair n x h).relay = h.relay := rfl
@[simp] theorem setPowerPair_testBus (n : PairIx) (x : PowerPair) : (setPowerPair n x h).testBus = h.testBus := rfl
@[simp] theorem setPowerPair_meas (n : PairIx) (x : PowerPair) : (setPowerPair n x h).meas = h.meas := rfl
@[simp] theorem setPowerPair_sense (n : PairIx) (x : PowerPair) : (setPowerPair n x h).sense = h.sense := rfl
@[simp] theorem setPowerPair_integ (n : PairIx) (x : PowerPair) : (setPowerPair n x h).integ = h.integ := rfl
@[simp] theorem setPowerPair_requests (n : PairIx) (x : PowerPair) : (setPowerPair n x h).requests = h.requests := rfl

/-! setBus -/

@[simp] theorem setBus_seconds (k : BusId) (x : BusRecord) : (setBus k x h).seconds = h.seconds := rfl
@[simp] theorem setBus_ports (k : BusId) (x : BusRecord) : (setBus k x h).ports = h.ports := rfl
@[simp] theorem setBus_events (k : BusId) (x : BusRecord) : (setBus k x h).events = h.events := rfl
@[simp] theorem setBus_pairTable (k : BusId) (x : BusRecord) : (setBus k x h).pairTable = h.pairTable := rfl
@[simp] theorem setBus_store (k : BusId) (x : BusRecord) : (setBus k x h).store = h.store := rfl
@[simp] theorem setBus_sched (k : BusId) (x : BusRecord) : (setBus k x h).sched = h.sched := rfl
@[simp] theorem setBus_line (k : BusId) (x : BusRecord) : (setBus k x h).line = h.line := rfl
@[simp] theorem setBus_trunk (k : BusId) (x : BusRecord) : (setBus k x h).trunk = h.trunk := rfl
@[simp] theorem setBus_relay (k : BusId) (x : BusRecord) : (setBus k x h).relay = h.relay := rfl
@[simp] theorem setBus_meas (k : BusId) (x : BusRecord) : (setBus k x h).meas = h.meas := rfl
@[simp] theorem setBus_sense (k : BusId) (x : BusRecord) : (setBus k x h).sense = h.sense := rfl
@[simp] theorem setBus_power (k : BusId) (x : BusRecord) : (setBus k x h).power = h.power := rfl
@[simp] theorem setBus_integ (k : BusId) (x : BusRecord) : (setBus k x h).integ = h.integ := rfl
@[simp] theorem setBus_requests (k : BusId) (x : BusRecord) : (setBus k x h).requests = h.requests := rfl

/-! setResult -/

@[simp] theorem setResult_seconds (k : BusId) (x : ResultRecord) : (setResult k x h).seconds = h.seconds := rfl
@[simp] theorem setResult_ports (k : BusId) (x : ResultRecord) : (setResult k x h).ports = h.ports := rfl
@[simp] theorem setResult_events (k : BusId) (x : ResultRecord) : (setResult k x h).events = h.events := rfl
@[simp] theorem setResult_pairTable (k : BusId) (x : ResultRecord) : (setResult k x h).pairTable = h.pairTable := rfl
@[simp] theorem setResult_store (k : BusId) (x : ResultRecord) : (setResult k x h).store = h.store := rfl
@[simp] theorem setResult_sched (k : BusId) (x : ResultRecord) : (setResult k x h).sched = h.sched := rfl
@[simp] theorem setResult_line (k : BusId) (x : ResultRecord) : (setResult k x h).line = h.line := rfl
@[simp] theorem setResult_trunk (k : BusId) (x : ResultRecord) : (setResult k x h).trunk = h.trunk := rfl
@[simp] theorem setResult_relay (k : BusId) (x : ResultRecord) : (setResult k x h).relay = h.relay := rfl
@[simp] theorem setResult_testBus (k : BusId) (x : ResultRecord) : (setResult k x h).testBus = h.testBus := rfl
@[simp] theorem setResult_sense (k : BusId) (x : ResultRecord) : (setResult k x h).sense = h.sense := rfl
@[simp] theorem setResult_power (k : BusId) (x : ResultRecord) : (setResult k x h).power = h.power := rfl
@[simp] theorem setResult_integ (k : BusId) (x : ResultRecord) : (setResult k x h).integ = h.integ := rfl
@[simp] theorem setResult_requests (k : BusId) (x : ResultRecord) : (setResult k x h).requests = h.requests := rfl

/-! setTone -/

@[simp] theorem setTone_seconds (k : BusId) (t : Timer) : (setTone k t h).seconds = h.seconds := rfl
@[simp] theorem setTone_ports (k : BusId) (t : Timer) : (setTone k t h).ports = h.ports := rfl
@[simp] theorem setTone_events (k : BusId) (t : Timer) : (setTone k t h).events = h.events := rfl
@[simp] theorem setTone_pairTable (k : BusId) (t : Timer) : (setTone k t h).pairTable = h.pairTable := rfl
@[simp] theorem setTone_store (k : BusId) (t : Timer) : (setTone k t h).store = h.store := rfl
@[simp] theorem setTone_sched (k : BusId) (t : Timer) : (setTone k t h).sched = h.sched := rfl
@[simp] theorem setTone_line (k : BusId) (t : Timer) : (setTone k t h).line = h.line := rfl
@[simp] theorem setTone_trunk (k : BusId) (t : Timer) : (setTone k t h).trunk = h.trunk := rfl
@[simp] theorem setTone_relay (k : BusId) (t : Timer) : (setTone k t h).relay = h.relay := rfl
@[simp] theorem setTone_testBus (k : BusId) (t : Timer) : (setTone k t h).testBus = h.testBus := rfl
@[simp] theorem setTone_sense (k : BusId) (t : Timer) : (setTone k t h).sense = h.sense := rfl
@[simp] theorem setTone_power (k : BusId) (t : Timer) : (setTone k t h).power = h.power := rfl
@[simp] theorem setTone_integ (k : BusId) (t : Timer) : (setTone k t h).integ = h.integ := rfl
@[simp] theorem setTone_requests (k : BusId) (t : Timer) : (setTone k t h).requests = h.requests := rfl

/-! setChannel -/

@[simp] theorem setChannel_seconds (c : Fin 4) (x : Channel) : (setChannel c x h).seconds = h.seconds := rfl
@[simp] theorem setChannel_ports (c : Fin 4) (x : Channel) : (setChannel c x h).ports = h.ports := rfl
@[simp] theorem setChannel_events (c : Fin 4) (x : Channel) : (setChannel c x h).events = h.events := rfl
@[simp] theorem setChannel_pairTable (c : Fin 4) (x : Channel) : (setChannel c x h).pairTable = h.pairTable := rfl
@[simp] theorem setChannel_store (c : Fin 4) (x : Channel) : (setChannel c x h).store = h.store := rfl
@[simp] theorem setChannel_sched (c : Fin 4) (x : Channel) : (setChannel c x h).sched = h.sched := rfl
@[simp] theorem setChannel_line (c : Fin 4) (x : Channel) : (setChannel c x h).line = h.line := rfl
@[simp] theorem setChannel_trunk (c : Fin 4) (x : Channel) : (setChannel c x h).trunk = h.trunk := rfl
@[simp] theorem setChannel_relay (c : Fin 4) (x : Channel) : (setChannel c x h).relay = h.relay := rfl
@[simp] theorem setChannel_testBus (c : Fin 4) (x : Channel) : (setChannel c x h).testBus = h.testBus := rfl
@[simp] theorem setChannel_sense (c : Fin 4) (x : Channel) : (setChannel c x h).sense = h.sense := rfl
@[simp] theorem setChannel_power (c : Fin 4) (x : Channel) : (setChannel c x h).power = h.power := rfl
@[simp] theorem setChannel_integ (c : Fin 4) (x : Channel) : (setChannel c x h).integ = h.integ := rfl
@[simp] theorem setChannel_requests (c : Fin 4) (x : Channel) : (setChannel c x h).requests = h.requests := rfl

/-! dropRequest -/

@[simp] theorem dropRequest_seconds (k : BusId) : (dropRequest k h).seconds = h.seconds := rfl
@[simp] theorem dropRequest_ports (k : BusId) : (dropRequest k h).ports = h.ports := rfl
@[simp] theorem dropRequest_events (k : BusId) : (dropRequest k h).events = h.events := rfl
@[simp] theorem dropRequest_pairTable (k : BusId) : (dropRequest k h).pairTable = h.pairTable := rfl
@[simp] theorem dropRequest_store (k : BusId) : (dropRequest k h).store = h.store := rfl
@[simp] theorem dropRequest_sched (k : BusId) : (dropRequest k h).sched = h.sched := rfl
@[simp] theorem dropRequest_line (k : BusId) : (dropRequest k h).line = h.line := rfl
@[simp] theorem dropRequest_trunk (k : BusId) : (dropRequest k h).trunk = h.trunk := rfl
@[simp] theorem dropRequest_relay (k : BusId) : (dropRequest k h).relay = h.relay := rfl
@[simp] theorem dropRequest_testBus (k : BusId) : (dropRequest k h).testBus = h.testBus := rfl
@[simp] theorem dropRequest_sense (k : BusId) : (dropRequest k h).sense = h.sense := rfl
@[simp] theorem dropRequest_power (k : BusId) : (dropRequest k h).power = h.power := rfl
@[simp] theorem dropRequest_integ (k : BusId) : (dropRequest k h).integ = h.integ := rfl
@[simp] theorem dropRequest_requests (k : BusId) : (dropRequest k h).requests = h.requests := rfl

/-! startStage -/

@[simp] theorem startStage_seconds (k : BusId) (st : Stage) : (startStage k st h).seconds = h.seconds := rfl
@[simp] theorem startStage_ports (k : BusId) (st : Stage) : (startStage k st h).ports = h.ports := rfl
@[simp] theorem startStage_events (k : BusId) (st : Stage) : (startStage k st h).events = h.events := rfl
@[simp] theorem startStage_pairTable (k : BusId) (st : Stage) : (startStage k st h).pairTable = h.pairTable := rfl
@[simp] theorem startStage_store (k : BusId) (st : Stage) : (startStage k st h).store = h.store := rfl
@[simp] theorem startStage_sched (k : BusId) (st : Stage) : (startStage k st h).sched = h.sched := rfl
@[simp] theorem startStage_line (k : BusId) (st : Stage) : (startStage k st h).line = h.line := rfl
@[simp] theorem startStage_trunk (k : BusId) (st : Stage) : (startStage k st h).trunk = h.trunk := rfl
@[simp] theorem startStage_relay (k : BusId) (st : Stage) : (startStage k st h).relay = h.relay := rfl
@[simp] theorem startStage_testBus (k : BusId) (st : Stage) : (startStage k st h).testBus = h.testBus := rfl
@[simp] theorem startStage_sense (k : BusId) (st : Stage) : (startStage k st h).sense = h.sense := rfl
@[simp] theorem startStage_power (k : BusId) (st : Stage) : (startStage k st h).power = h.power := rfl
@[simp] theorem startStage_integ (k : BusId) (st : Stage) : (startStage k st h).integ = h.integ := rfl
@[simp] theorem startStage_requests (k : BusId) (st : Stage) : (startStage k st h).requests = h.requests := rfl

/-! setTrunk -/

@[simp] theorem setTrunk_seconds (t : Trunk) : (setTrunk t h).seconds = h.seconds := rfl
@[simp] theorem setTrunk_ports (t : Trunk) : (setTrunk t h).ports = h.ports := rfl
@[simp] theorem setTrunk_events (t : Trunk) : (setTrunk t h).events = h.events := rfl
@[simp] theorem setTrunk_pairTable (t : Trunk) : (setTrunk t h).pairTable = h.pairTable := rfl
@[simp] theorem setTrunk_store (t : Trunk) : (setTrunk t h).store = h.store := rfl
@[simp] theorem setTrunk_sched (t : Trunk) : (setTrunk t h).sched = h.sched := rfl
@[simp] theorem setTrunk_line (t : Trunk) : (setTrunk t h).line = h.line := rfl
@[simp] theorem setTrunk_relay (t : Trunk) : (setTrunk t h).relay = h.relay := rfl
@[simp] theorem setTrunk_testBus (t : Trunk) : (setTrunk t h).testBus = h.testBus := rfl
@[simp] theorem setTrunk_meas (t : Trunk) : (setTrunk t h).meas = h.meas := rfl
@[simp] theorem setTrunk_sense (t : Trunk) : (setTrunk t h).sense = h.sense := rfl
@[simp] theorem setTrunk_power (t : Trunk) : (setTrunk t h).power = h.power := rfl
@[simp] theorem setTrunk_integ (t : Trunk) : (setTrunk t h).integ = h.integ := rfl
@[simp] theorem setTrunk_requests (t : Trunk) : (setTrunk t h).requests = h.requests := rfl

/-! setPort -/

@[simp] theorem setPort_seconds (p : Port) (u : PortUnit) : (setPort p u h).seconds = h.seconds := rfl
@[simp] theorem setPort_events (p : Port) (u : PortUnit) : (setPort p u h).events = h.events := rfl
@[simp] theorem setPort_pairTable (p : Port) (u : PortUnit) : (setPort p u h).pairTable = h.pairTable := rfl
@[simp] theorem setPort_store (p : Port) (u : PortUnit) : (setPort p u h).store = h.store := rfl
@[simp] theorem setPort_sched (p : Port) (u : PortUnit) : (setPort p u h).sched = h.sched := rfl
@[simp] theorem setPort_line (p : Port) (u : PortUnit) : (setPort p u h).line = h.line := rfl
@[simp] theorem setPort_trunk (p : Port) (u : PortUnit) : (setPort p u h).trunk = h.trunk := rfl
@[simp] theorem setPort_relay (p : Port) (u : PortUnit) : (setPort p u h).relay = h.relay := rfl
@[simp] theorem setPort_testBus (p : Port) (u : PortUnit) : (setPort p u h).testBus = h.testBus := rfl
@[simp] theorem setPort_meas (p : Port) (u : PortUnit) : (setPort p u h).meas = h.meas := rfl
@[simp] theorem setPort_sense (p : Port) (u : PortUnit) : (setPort p u h).sense = h.sense := rfl
@[simp] theorem setPort_power (p : Port) (u : PortUnit) : (setPort p u h).power = h.power := rfl
@[simp] theorem setPort_integ (p : Port) (u : PortUnit) : (setPort p u h).integ = h.integ := rfl
@[simp] theorem setPort_requests (p : Port) (u : PortUnit) : (setPort p u h).requests = h.requests := rfl

/-! setEventsOf -/

@[simp] theorem setEventsOf_seconds (p : Port) (e : EventPort) : (setEventsOf p e h).seconds = h.seconds := rfl
@[simp] theorem setEventsOf_ports (p : Port) (e : EventPort) : (setEventsOf p e h).ports = h.ports := rfl
@[simp] theorem setEventsOf_pairTable (p : Port) (e : EventPort) : (setEventsOf p e h).pairTable = h.pairTable := rfl
@[simp] theorem setEventsOf_store (p : Port) (e : EventPort) : (setEventsOf p e h).store = h.store := rfl
@[simp] theorem setEventsOf_sched (p : Port) (e : EventPort) : (setEventsOf p e h).sched = h.sched := rfl
@[simp] theorem setEventsOf_line (p : Port) (e : EventPort) : (setEventsOf p e h).line = h.line := rfl
@[simp] theorem setEventsOf_trunk (p : Port) (e : EventPort) : (setEventsOf p e h).trunk = h.trunk := rfl
@[simp] theorem setEventsOf_relay (p : Port) (e : EventPort) : (setEventsOf p e h).relay = h.relay := rfl
@[simp] theorem setEventsOf_testBus (p : Port) (e : EventPort) : (setEventsOf p e h).testBus = h.testBus := rfl
@[simp] theorem setEventsOf_meas (p : Port) (e : EventPort) : (setEventsOf p e h).meas = h.meas := rfl
@[simp] theorem setEventsOf_sense (p : Port) (e : EventPort) : (setEventsOf p e h).sense = h.sense := rfl
@[simp] theorem setEventsOf_power (p : Port) (e : EventPort) : (setEventsOf p e h).power = h.power := rfl
@[simp] theorem setEventsOf_integ (p : Port) (e : EventPort) : (setEventsOf p e h).integ = h.integ := rfl
@[simp] theorem setEventsOf_requests (p : Port) (e : EventPort) : (setEventsOf p e h).requests = h.requests := rfl

/-! post -/

@[simp] theorem post_seconds (f : EventFlag) : (post f h).seconds = h.seconds := rfl
@[simp] theorem post_ports (f : EventFlag) : (post f h).ports = h.ports := rfl
@[simp] theorem post_pairTable (f : EventFlag) : (post f h).pairTable = h.pairTable := rfl
@[simp] theorem post_store (f : EventFlag) : (post f h).store = h.store := rfl
@[simp] theorem post_sched (f : EventFlag) : (post f h).sched = h.sched := rfl
@[simp] theorem post_line (f : EventFlag) : (post f h).line = h.line := rfl
@[simp] theorem post_trunk (f : EventFlag) : (post f h).trunk = h.trunk := rfl
@[simp] theorem post_relay (f : EventFlag) : (post f h).relay = h.relay := rfl
@[simp] theorem post_testBus (f : EventFlag) : (post f h).testBus = h.testBus := rfl
@[simp] theorem post_meas (f : EventFlag) : (post f h).meas = h.meas := rfl
@[simp] theorem post_sense (f : EventFlag) : (post f h).sense = h.sense := rfl
@[simp] theorem post_power (f : EventFlag) : (post f h).power = h.power := rfl
@[simp] theorem post_integ (f : EventFlag) : (post f h).integ = h.integ := rfl
@[simp] theorem post_requests (f : EventFlag) : (post f h).requests = h.requests := rfl

/-! raiseAt -/

@[simp] theorem raiseAt_seconds (p : Port) (f : EventFlag) : (raiseAt p f h).seconds = h.seconds := rfl
@[simp] theorem raiseAt_ports (p : Port) (f : EventFlag) : (raiseAt p f h).ports = h.ports := rfl
@[simp] theorem raiseAt_pairTable (p : Port) (f : EventFlag) : (raiseAt p f h).pairTable = h.pairTable := rfl
@[simp] theorem raiseAt_store (p : Port) (f : EventFlag) : (raiseAt p f h).store = h.store := rfl
@[simp] theorem raiseAt_sched (p : Port) (f : EventFlag) : (raiseAt p f h).sched = h.sched := rfl
@[simp] theorem raiseAt_line (p : Port) (f : EventFlag) : (raiseAt p f h).line = h.line := rfl
@[simp] theorem raiseAt_trunk (p : Port) (f : EventFlag) : (raiseAt p f h).trunk = h.trunk := rfl
@[simp] theorem raiseAt_relay (p : Port) (f : EventFlag) : (raiseAt p f h).relay = h.relay := rfl
@[simp] theorem raiseAt_testBus (p : Port) (f : EventFlag) : (raiseAt p f h).testBus = h.testBus := rfl
@[simp] theorem raiseAt_meas (p : Port) (f : EventFlag) : (raiseAt p f h).meas = h.meas := rfl
@[simp] theorem raiseAt_sense (p : Port) (f : EventFlag) : (raiseAt p f h).sense = h.sense := rfl
@[simp] theorem raiseAt_power (p : Port) (f : EventFlag) : (raiseAt p f h).power = h.power := rfl
@[simp] theorem raiseAt_integ (p : Port) (f : EventFlag) : (raiseAt p f h).integ = h.integ := rfl
@[simp] theorem raiseAt_requests (p : Port) (f : EventFlag) : (raiseAt p f h).requests = h.requests := rfl

/-! report -/

@[simp] theorem report_seconds (n : PairIx) (e : Bool) : (report n e h).seconds = h.seconds := rfl
@[simp] theorem report_ports (n : PairIx) (e : Bool) : (report n e h).ports = h.ports := rfl
@[simp] theorem report_events (n : PairIx) (e : Bool) : (report n e h).events = h.events := rfl
@[simp] theorem report_pairTable (n : PairIx) (e : Bool) : (report n e h).pairTable = h.pairTable := rfl
@[simp] theorem report_store (n : PairIx) (e : Bool) : (report n e h).store = h.store := rfl
@[simp] theorem report_trunk (n : PairIx) (e : Bool) : (report n e h).trunk = h.trunk := rfl
@[simp] theorem report_relay (n : PairIx) (e : Bool) : (report n e h).relay = h.relay := rfl
@[simp] theorem report_testBus (n : PairIx) (e : Bool) : (report n e h).testBus = h.testBus := rfl
@[simp] theorem report_meas (n : PairIx) (e : Bool) : (report n e h).meas = h.meas := rfl
@[simp] theorem report_sense (n : PairIx) (e : Bool) : (report n e h).sense = h.sense := rfl
@[simp] theorem report_power (n : PairIx) (e : Bool) : (report n e h).power = h.power := rfl
@[simp] theorem report_integ (n : PairIx) (e : Bool) : (report n e h).integ = h.integ := rfl
@[simp] theorem report_requests (n : PairIx) (e : Bool) : (report n e h).requests = h.requests := rfl

/-! refresh -/

@[simp] theorem refresh_seconds (n : PairIx) : (refresh n h).seconds = h.seconds := rfl
@[simp] theorem refresh_ports (n : PairIx) : (refresh n h).ports = h.ports := rfl
@[simp] theorem refresh_events (n : PairIx) : (refresh n h).events = h.events := rfl
@[simp] theorem refresh_pairTable (n : PairIx) : (refresh n h).pairTable = h.pairTable := rfl
@[simp] theorem refresh_store (n : PairIx) : (refresh n h).store = h.store := rfl
@[simp] theorem refresh_trunk (n : PairIx) : (refresh n h).trunk = h.trunk := rfl
@[simp] theorem refresh_relay (n : PairIx) : (refresh n h).relay = h.relay := rfl
@[simp] theorem refresh_testBus (n : PairIx) : (refresh n h).testBus = h.testBus := rfl
@[simp] theorem refresh_meas (n : PairIx) : (refresh n h).meas = h.meas := rfl
@[simp] theorem refresh_sense (n : PairIx) : (refresh n h).sense = h.sense := rfl
@[simp] theorem refresh_power (n : PairIx) : (refresh n h).power = h.power := rfl
@[simp] theorem refresh_integ (n : PairIx) : (refresh n h).integ = h.integ := rfl
@[simp] theorem refresh_requests (n : PairIx) : (refresh n h).requests = h.requests := rfl

/-! endExchange -/

@[simp] theorem endExchange_seconds : (endExchange h).seconds = h.seconds := by simp only [endExchange]
@[simp] theorem endExchange_ports : (endExchange h).ports = h.ports := by simp only [endExchange]
@[simp] theorem endExchange_events : (endExchange h).events = h.events := by simp only [endExchange]
@[simp] theorem endExchange_pairTable : (endExchange h).pairTable = h.pairTable := by simp only [endExchange]
@[simp] theorem endExchange_store : (endExchange h).store = h.store := by simp only [endExchange]
@[simp] theorem endExchange_trunk : (endExchange h).trunk = h.trunk := by simp only [endExchange]
@[simp] theorem endExchange_relay : (endExchange h).relay = h.relay := by simp only [endExchange]
@[simp] theorem endExchange_testBus : (endExchange h).testBus = h.testBus := by simp only [endExchange]
@[simp] theorem endExchange_meas : (endExchange h).meas = h.meas := by simp only [endExchange]
@[simp] theorem endExchange_sense : (endExchange h).sense = h.sense := by simp only [endExchange]
@[simp] theorem endExchange_power : (endExchange h).power = h.power := by simp only [endExchange]
@[simp] theorem endExchange_integ : (endExchange h).integ = h.integ := by simp only [endExchange]
@[simp] theorem endExchange_requests : (endExchange h).requests = h.requests := by simp only [endExchange]

/-! send -/

@[simp] theorem send_seconds (r : Request) : (send r h).seconds = h.seconds := rfl
@[simp] theorem send_ports (r : Request) : (send r h).ports = h.ports := rfl
@[simp] theorem send_events (r : Request) : (send r h).events = h.events := rfl
@[simp] theorem send_pairTable (r : Request) : (send r h).pairTable = h.pairTable := rfl
@[simp] theorem send_store (r : Request) : (send r h).store = h.store := rfl
@[simp] theorem send_sched (r : Request) : (send r h).sched = h.sched := rfl
@[simp] theorem send_line (r : Request) : (send r h).line = h.line := rfl
@[simp] theorem send_trunk (r : Request) : (send r h).trunk = h.trunk := rfl
@[simp] theorem send_relay (r : Request) : (send r h).relay = h.relay := rfl
@[simp] theorem send_testBus (r : Request) : (send r h).testBus = h.testBus := rfl
@[simp] theorem send_meas (r : Request) : (send r h).meas = h.meas := rfl
@[simp] theorem send_sense (r : Request) : (send r h).sense = h.sense := rfl
@[simp] theorem send_power (r : Request) : (send r h).power = h.power := rfl
@[simp] theorem send_integ (r : Request) : (send r h).integ = h.integ := rfl

/-! setCredit -/

@[simp] theorem setCredit_seconds (n : PairIx) (c : Fin 16) : (setCredit n c h).seconds = h.seconds := rfl
@[simp] theorem setCredit_ports (n : PairIx) (c : Fin 16) : (setCredit n c h).ports = h.ports := rfl
@[simp] theorem setCredit_events (n : PairIx) (c : Fin 16) : (setCredit n c h).events = h.events := rfl
@[simp] theorem setCredit_pairTable (n : PairIx) (c : Fin 16) : (setCredit n c h).pairTable = h.pairTable := rfl
@[simp] theorem setCredit_store (n : PairIx) (c : Fin 16) : (setCredit n c h).store = h.store := rfl
@[simp] theorem setCredit_line (n : PairIx) (c : Fin 16) : (setCredit n c h).line = h.line := rfl
@[simp] theorem setCredit_trunk (n : PairIx) (c : Fin 16) : (setCredit n c h).trunk = h.trunk := rfl
@[simp] theorem setCredit_relay (n : PairIx) (c : Fin 16) : (setCredit n c h).relay = h.relay := rfl
@[simp] theorem setCredit_testBus (n : PairIx) (c : Fin 16) : (setCredit n c h).testBus = h.testBus := rfl
@[simp] theorem setCredit_meas (n : PairIx) (c : Fin 16) : (setCredit n c h).meas = h.meas := rfl
@[simp] theorem setCredit_sense (n : PairIx) (c : Fin 16) : (setCredit n c h).sense = h.sense := rfl
@[simp] theorem setCredit_power (n : PairIx) (c : Fin 16) : (setCredit n c h).power = h.power := rfl
@[simp] theorem setCredit_integ (n : PairIx) (c : Fin 16) : (setCredit n c h).integ = h.integ := rfl
@[simp] theorem setCredit_requests (n : PairIx) (c : Fin 16) : (setCredit n c h).requests = h.requests := rfl

/-! setSenseInput -/

@[simp] theorem setSenseInput_seconds (i : SenseIx) (x : SenseInput) : (setSenseInput i x h).seconds = h.seconds := rfl
@[simp] theorem setSenseInput_ports (i : SenseIx) (x : SenseInput) : (setSenseInput i x h).ports = h.ports := rfl
@[simp] theorem setSenseInput_events (i : SenseIx) (x : SenseInput) : (setSenseInput i x h).events = h.events := rfl
@[simp] theorem setSenseInput_pairTable (i : SenseIx) (x : SenseInput) : (setSenseInput i x h).pairTable = h.pairTable := rfl
@[simp] theorem setSenseInput_store (i : SenseIx) (x : SenseInput) : (setSenseInput i x h).store = h.store := rfl
@[simp] theorem setSenseInput_sched (i : SenseIx) (x : SenseInput) : (setSenseInput i x h).sched = h.sched := rfl
@[simp] theorem setSenseInput_line (i : SenseIx) (x : SenseInput) : (setSenseInput i x h).line = h.line := rfl
@[simp] theorem setSenseInput_trunk (i : SenseIx) (x : SenseInput) : (setSenseInput i x h).trunk = h.trunk := rfl
@[simp] theorem setSenseInput_relay (i : SenseIx) (x : SenseInput) : (setSenseInput i x h).relay = h.relay := rfl
@[simp] theorem setSenseInput_testBus (i : SenseIx) (x : SenseInput) : (setSenseInput i x h).testBus = h.testBus := rfl
@[simp] theorem setSenseInput_meas (i : SenseIx) (x : SenseInput) : (setSenseInput i x h).meas = h.meas := rfl
@[simp] theorem setSenseInput_power (i : SenseIx) (x : SenseInput) : (setSenseInput i x h).power = h.power := rfl
@[simp] theorem setSenseInput_integ (i : SenseIx) (x : SenseInput) : (setSenseInput i x h).integ = h.integ := rfl
@[simp] theorem setSenseInput_requests (i : SenseIx) (x : SenseInput) : (setSenseInput i x h).requests = h.requests := rfl

/-! setGuardTimer -/

@[simp] theorem setGuardTimer_seconds (b : BlockIx) (t : Timer) : (setGuardTimer b t h).seconds = h.seconds := rfl
@[simp] theorem setGuardTimer_ports (b : BlockIx) (t : Timer) : (setGuardTimer b t h).ports = h.ports := rfl
@[simp] theorem setGuardTimer_events (b : BlockIx) (t : Timer) : (setGuardTimer b t h).events = h.events := rfl
@[simp] theorem setGuardTimer_pairTable (b : BlockIx) (t : Timer) : (setGuardTimer b t h).pairTable = h.pairTable := rfl
@[simp] theorem setGuardTimer_store (b : BlockIx) (t : Timer) : (setGuardTimer b t h).store = h.store := rfl
@[simp] theorem setGuardTimer_sched (b : BlockIx) (t : Timer) : (setGuardTimer b t h).sched = h.sched := rfl
@[simp] theorem setGuardTimer_line (b : BlockIx) (t : Timer) : (setGuardTimer b t h).line = h.line := rfl
@[simp] theorem setGuardTimer_trunk (b : BlockIx) (t : Timer) : (setGuardTimer b t h).trunk = h.trunk := rfl
@[simp] theorem setGuardTimer_testBus (b : BlockIx) (t : Timer) : (setGuardTimer b t h).testBus = h.testBus := rfl
@[simp] theorem setGuardTimer_meas (b : BlockIx) (t : Timer) : (setGuardTimer b t h).meas = h.meas := rfl
@[simp] theorem setGuardTimer_sense (b : BlockIx) (t : Timer) : (setGuardTimer b t h).sense = h.sense := rfl
@[simp] theorem setGuardTimer_power (b : BlockIx) (t : Timer) : (setGuardTimer b t h).power = h.power := rfl
@[simp] theorem setGuardTimer_integ (b : BlockIx) (t : Timer) : (setGuardTimer b t h).integ = h.integ := rfl
@[simp] theorem setGuardTimer_requests (b : BlockIx) (t : Timer) : (setGuardTimer b t h).requests = h.requests := rfl

/-! setSurgeLevel -/

@[simp] theorem setSurgeLevel_seconds (b : BlockIx) (l : Level) : (setSurgeLevel b l h).seconds = h.seconds := rfl
@[simp] theorem setSurgeLevel_ports (b : BlockIx) (l : Level) : (setSurgeLevel b l h).ports = h.ports := rfl
@[simp] theorem setSurgeLevel_events (b : BlockIx) (l : Level) : (setSurgeLevel b l h).events = h.events := rfl
@[simp] theorem setSurgeLevel_pairTable (b : BlockIx) (l : Level) : (setSurgeLevel b l h).pairTable = h.pairTable := rfl
@[simp] theorem setSurgeLevel_store (b : BlockIx) (l : Level) : (setSurgeLevel b l h).store = h.store := rfl
@[simp] theorem setSurgeLevel_sched (b : BlockIx) (l : Level) : (setSurgeLevel b l h).sched = h.sched := rfl
@[simp] theorem setSurgeLevel_line (b : BlockIx) (l : Level) : (setSurgeLevel b l h).line = h.line := rfl
@[simp] theorem setSurgeLevel_trunk (b : BlockIx) (l : Level) : (setSurgeLevel b l h).trunk = h.trunk := rfl
@[simp] theorem setSurgeLevel_testBus (b : BlockIx) (l : Level) : (setSurgeLevel b l h).testBus = h.testBus := rfl
@[simp] theorem setSurgeLevel_meas (b : BlockIx) (l : Level) : (setSurgeLevel b l h).meas = h.meas := rfl
@[simp] theorem setSurgeLevel_sense (b : BlockIx) (l : Level) : (setSurgeLevel b l h).sense = h.sense := rfl
@[simp] theorem setSurgeLevel_power (b : BlockIx) (l : Level) : (setSurgeLevel b l h).power = h.power := rfl
@[simp] theorem setSurgeLevel_integ (b : BlockIx) (l : Level) : (setSurgeLevel b l h).integ = h.integ := rfl
@[simp] theorem setSurgeLevel_requests (b : BlockIx) (l : Level) : (setSurgeLevel b l h).requests = h.requests := rfl

/-! setStepTimer -/

@[simp] theorem setStepTimer_seconds (t : Timer) : (setStepTimer t h).seconds = h.seconds := rfl
@[simp] theorem setStepTimer_ports (t : Timer) : (setStepTimer t h).ports = h.ports := rfl
@[simp] theorem setStepTimer_events (t : Timer) : (setStepTimer t h).events = h.events := rfl
@[simp] theorem setStepTimer_pairTable (t : Timer) : (setStepTimer t h).pairTable = h.pairTable := rfl
@[simp] theorem setStepTimer_store (t : Timer) : (setStepTimer t h).store = h.store := rfl
@[simp] theorem setStepTimer_sched (t : Timer) : (setStepTimer t h).sched = h.sched := rfl
@[simp] theorem setStepTimer_line (t : Timer) : (setStepTimer t h).line = h.line := rfl
@[simp] theorem setStepTimer_trunk (t : Timer) : (setStepTimer t h).trunk = h.trunk := rfl
@[simp] theorem setStepTimer_relay (t : Timer) : (setStepTimer t h).relay = h.relay := rfl
@[simp] theorem setStepTimer_testBus (t : Timer) : (setStepTimer t h).testBus = h.testBus := rfl
@[simp] theorem setStepTimer_meas (t : Timer) : (setStepTimer t h).meas = h.meas := rfl
@[simp] theorem setStepTimer_sense (t : Timer) : (setStepTimer t h).sense = h.sense := rfl
@[simp] theorem setStepTimer_integ (t : Timer) : (setStepTimer t h).integ = h.integ := rfl
@[simp] theorem setStepTimer_requests (t : Timer) : (setStepTimer t h).requests = h.requests := rfl

/-! enterMode -/

@[simp] theorem enterMode_seconds (m : PowerMode) : (enterMode m h).seconds = h.seconds := rfl
@[simp] theorem enterMode_ports (m : PowerMode) : (enterMode m h).ports = h.ports := rfl
@[simp] theorem enterMode_events (m : PowerMode) : (enterMode m h).events = h.events := rfl
@[simp] theorem enterMode_pairTable (m : PowerMode) : (enterMode m h).pairTable = h.pairTable := rfl
@[simp] theorem enterMode_store (m : PowerMode) : (enterMode m h).store = h.store := rfl
@[simp] theorem enterMode_sched (m : PowerMode) : (enterMode m h).sched = h.sched := rfl
@[simp] theorem enterMode_line (m : PowerMode) : (enterMode m h).line = h.line := rfl
@[simp] theorem enterMode_trunk (m : PowerMode) : (enterMode m h).trunk = h.trunk := rfl
@[simp] theorem enterMode_relay (m : PowerMode) : (enterMode m h).relay = h.relay := rfl
@[simp] theorem enterMode_testBus (m : PowerMode) : (enterMode m h).testBus = h.testBus := rfl
@[simp] theorem enterMode_meas (m : PowerMode) : (enterMode m h).meas = h.meas := rfl
@[simp] theorem enterMode_sense (m : PowerMode) : (enterMode m h).sense = h.sense := rfl
@[simp] theorem enterMode_integ (m : PowerMode) : (enterMode m h).integ = h.integ := rfl
@[simp] theorem enterMode_requests (m : PowerMode) : (enterMode m h).requests = h.requests := rfl

/-! dropNotice -/

@[simp] theorem dropNotice_seconds (p : Port) : (dropNotice p h).seconds = h.seconds := rfl
@[simp] theorem dropNotice_ports (p : Port) : (dropNotice p h).ports = h.ports := rfl
@[simp] theorem dropNotice_events (p : Port) : (dropNotice p h).events = h.events := rfl
@[simp] theorem dropNotice_store (p : Port) : (dropNotice p h).store = h.store := rfl
@[simp] theorem dropNotice_sched (p : Port) : (dropNotice p h).sched = h.sched := rfl
@[simp] theorem dropNotice_line (p : Port) : (dropNotice p h).line = h.line := rfl
@[simp] theorem dropNotice_trunk (p : Port) : (dropNotice p h).trunk = h.trunk := rfl
@[simp] theorem dropNotice_relay (p : Port) : (dropNotice p h).relay = h.relay := rfl
@[simp] theorem dropNotice_testBus (p : Port) : (dropNotice p h).testBus = h.testBus := rfl
@[simp] theorem dropNotice_meas (p : Port) : (dropNotice p h).meas = h.meas := rfl
@[simp] theorem dropNotice_sense (p : Port) : (dropNotice p h).sense = h.sense := rfl
@[simp] theorem dropNotice_power (p : Port) : (dropNotice p h).power = h.power := rfl
@[simp] theorem dropNotice_integ (p : Port) : (dropNotice p h).integ = h.integ := rfl
@[simp] theorem dropNotice_requests (p : Port) : (dropNotice p h).requests = h.requests := rfl

/-! reportEmptied -/

@[simp] theorem reportEmptied_seconds (g : Hw) : (reportEmptied g h).seconds = h.seconds := by
  simp only [reportEmptied]
@[simp] theorem reportEmptied_ports (g : Hw) : (reportEmptied g h).ports = h.ports := by
  simp only [reportEmptied]
@[simp] theorem reportEmptied_events (g : Hw) : (reportEmptied g h).events = h.events := by
  simp only [reportEmptied]
@[simp] theorem reportEmptied_pairTable (g : Hw) : (reportEmptied g h).pairTable = h.pairTable := by
  simp only [reportEmptied]
@[simp] theorem reportEmptied_store (g : Hw) : (reportEmptied g h).store = h.store := by
  simp only [reportEmptied]
@[simp] theorem reportEmptied_line (g : Hw) : (reportEmptied g h).line = h.line := by
  simp only [reportEmptied]
@[simp] theorem reportEmptied_trunk (g : Hw) : (reportEmptied g h).trunk = h.trunk := by
  simp only [reportEmptied]
@[simp] theorem reportEmptied_relay (g : Hw) : (reportEmptied g h).relay = h.relay := by
  simp only [reportEmptied]
@[simp] theorem reportEmptied_testBus (g : Hw) : (reportEmptied g h).testBus = h.testBus := by
  simp only [reportEmptied]
@[simp] theorem reportEmptied_meas (g : Hw) : (reportEmptied g h).meas = h.meas := by
  simp only [reportEmptied]
@[simp] theorem reportEmptied_sense (g : Hw) : (reportEmptied g h).sense = h.sense := by
  simp only [reportEmptied]
@[simp] theorem reportEmptied_power (g : Hw) : (reportEmptied g h).power = h.power := by
  simp only [reportEmptied]
@[simp] theorem reportEmptied_integ (g : Hw) : (reportEmptied g h).integ = h.integ := by
  simp only [reportEmptied]
@[simp] theorem reportEmptied_requests (g : Hw) : (reportEmptied g h).requests = h.requests := by
  simp only [reportEmptied]

/-! ### What stands where it was put -/

@[simp] theorem storedPair_setStored_same (n : PairIx) (x : StoredPair) : storedPair (setStored n x h) n = x := by
  simp [storedPair, setStored]

theorem storedPair_setStored_other {n m : PairIx} (x : StoredPair) (hn : n ≠ m) :
    storedPair (setStored n x h) m = storedPair h m := by
  have : n.val ≠ m.val := fun e => hn (Fin.ext e)
  simp [storedPair, setStored, this]

@[simp] theorem setPowerPair_same (n : PairIx) (x : PowerPair) : (setPowerPair n x h).power.pairs[n] = x := by
  simp [setPowerPair]

@[simp] theorem setPowerPair_floor (n : PairIx) (x : PowerPair) :
    (setPowerPair n x h).power.floor = h.power.floor := rfl

@[simp] theorem busRecord_setBus (k : BusId) (x : BusRecord) : busRecord (setBus k x h) k = x := by cases k <;> rfl

@[simp] theorem resultOf_setResult (k : BusId) (x : ResultRecord) : resultOf (setResult k x h) k = x := by
  cases k <;> rfl

@[simp] theorem portOf_setPort (p : Port) (u : PortUnit) : portOf (setPort p u h) p = u := by cases p <;> rfl

theorem portOf_setPort_other {p q : Port} (u : PortUnit) (hq : q ≠ p) : portOf (setPort p u h) q = portOf h q := by
  cases p <;> cases q <;> first | rfl | exact absurd rfl hq

@[simp] theorem eventsOf_setEventsOf (p : Port) (e : EventPort) : eventsOf (setEventsOf p e h) p = e := by
  cases p <;> rfl

@[simp] theorem channelOf_setChannel (c : Fin 4) (x : Channel) : channelOf (setChannel c x h) c = x := by
  simp [channelOf, setChannel]

theorem channelOf_setChannel_other {c d : Fin 4} (x : Channel) (hd : c ≠ d) :
    channelOf (setChannel c x h) d = channelOf h d := by
  have : c.val ≠ d.val := fun e => hd (Fin.ext e)
  simp [channelOf, setChannel, this]

@[simp] theorem setTrunk_trunk (t : Trunk) : (setTrunk t h).trunk = t := rfl

@[simp] theorem setSenseInput_same (i : SenseIx) (x : SenseInput) : (setSenseInput i x h).sense[i] = x := by
  simp [setSenseInput]

/-- The share scheduler hears of no queue emptied when the event changes nothing (R57). -/
@[simp] theorem reportEmptied_self : reportEmptied h h = h := by
  have e : (Vector.ofFn fun n : PairIx =>
      if 0 < h.store.descriptors[upq n].fields.count ∧ h.store.descriptors[upq n].fields.count = 0 then 0
      else h.sched.credit[n]) = h.sched.credit := by
    ext i hi
    simp only [Vector.getElem_ofFn]
    rw [if_neg (by omega)]
    rfl
  unfold reportEmptied
  rw [e]

/-- So it is when the event leaves the descriptors as they were. -/
theorem reportEmptied_of_descriptors (g : Hw) (hg : h.store.descriptors = g.store.descriptors) :
    reportEmptied g h = h := by
  have e : (Vector.ofFn fun n : PairIx =>
      if 0 < g.store.descriptors[upq n].fields.count ∧ h.store.descriptors[upq n].fields.count = 0 then 0
      else h.sched.credit[n]) = h.sched.credit := by
    ext i hi
    simp only [Vector.getElem_ofFn, hg]
    rw [if_neg (by omega)]
    rfl
  unfold reportEmptied
  rw [e]

end Sys2Proof.Machine
end

