-- ==== Sys2Proof/Laws/Sparse.lean ====
section
/-! SUPPORT. Sparse storage: a write is read back, leaves every other index, and keeps the canonical form. -/

namespace Sys2Proof.Machine.Sparse

variable {α : Type} [DecidableEq α] (dflt : Nat → α)

theorem wfFrom_mono {lo lo' : Nat} (m : List (Nat × α)) (hle : lo' ≤ lo) (h : wfFrom dflt lo m = true) :
    wfFrom dflt lo' m = true := by
  cases m with
  | nil => rfl
  | cons e rest =>
    simp only [wfFrom, Bool.and_eq_true, decide_eq_true_eq] at h ⊢
    exact ⟨⟨by omega, h.1.2⟩, h.2⟩

theorem get_of_lt {lo k : Nat} (m : List (Nat × α)) (h : wfFrom dflt lo m = true) (hk : k < lo) :
    get dflt m k = dflt k := by
  induction m generalizing lo with
  | nil => rfl
  | cons e rest ih =>
    simp only [wfFrom, Bool.and_eq_true, decide_eq_true_eq] at h
    have hne : e.1 ≠ k := by omega
    simp only [get, if_neg hne]
    exact ih h.2 (by omega)

theorem wfFrom_insert {lo k : Nat} (v : α) (m : List (Nat × α)) (h : wfFrom dflt lo m = true) (hk : lo ≤ k)
    (hv : v ≠ dflt k) : wfFrom dflt lo (insert k v m) = true := by
  induction m generalizing lo with
  | nil => simp [insert, wfFrom, hk, hv]
  | cons e rest ih =>
    obtain ⟨j, w⟩ := e
    simp only [wfFrom, Bool.and_eq_true, decide_eq_true_eq] at h
    simp only [insert]
    split
    · simp only [wfFrom, Bool.and_eq_true, decide_eq_true_eq]
      exact ⟨⟨hk, hv⟩, ⟨by omega, h.1.2⟩, h.2⟩
    · split
      · rename_i heq
        subst heq
        simp only [wfFrom, Bool.and_eq_true, decide_eq_true_eq]
        exact ⟨⟨hk, hv⟩, h.2⟩
      · simp only [wfFrom, Bool.and_eq_true, decide_eq_true_eq]
        exact ⟨h.1, ih h.2 (by omega)⟩

theorem wfFrom_erase {lo : Nat} (k : Nat) (m : List (Nat × α)) (h : wfFrom dflt lo m = true) :
    wfFrom dflt lo (erase k m) = true := by
  induction m generalizing lo with
  | nil => rfl
  | cons e rest ih =>
    simp only [wfFrom, Bool.and_eq_true, decide_eq_true_eq] at h
    have hrest := ih h.2
    by_cases he : e.1 = k
    · simp only [erase, List.filter, he, ne_eq, not_true_eq_false, decide_false]
      exact wfFrom_mono dflt _ (by omega) hrest
    · simp only [erase, List.filter, he, ne_eq, not_false_eq_true, decide_true, wfFrom, Bool.and_eq_true,
        decide_eq_true_eq]
      exact ⟨h.1, hrest⟩

/-- A write keeps the canonical form. -/
theorem wf_set (m : List (Nat × α)) (k : Nat) (v : α) (h : wf dflt m = true) : wf dflt (set dflt m k v) = true := by
  unfold wf at *
  unfold set
  split
  · exact wfFrom_erase dflt k m h
  · next hv => exact wfFrom_insert dflt v m h (Nat.zero_le k) hv

omit [DecidableEq α] in
theorem get_insert_same (m : List (Nat × α)) (k : Nat) (v : α) : get dflt (insert k v m) k = v := by
  induction m with
  | nil => simp [insert, get]
  | cons e rest ih =>
    obtain ⟨j, w⟩ := e
    simp only [insert]
    split
    · simp [get]
    · split
      · simp [get]
      · next hne =>
        have : j ≠ k := fun h => hne h.symm
        simp [get, this, ih]

omit [DecidableEq α] in
theorem get_insert_other (m : List (Nat × α)) (k j : Nat) (v : α) (hj : j ≠ k) :
    get dflt (insert k v m) j = get dflt m j := by
  induction m with
  | nil => simp [insert, get, hj.symm]
  | cons e rest ih =>
    obtain ⟨i, w⟩ := e
    simp only [insert]
    split
    · simp [get, hj.symm]
    · split
      · next heq => subst heq; simp [get, hj.symm]
      · simp only [get, ih]

omit [DecidableEq α] in
theorem get_erase_other (m : List (Nat × α)) (k j : Nat) (hj : j ≠ k) : get dflt (erase k m) j = get dflt m j := by
  induction m with
  | nil => rfl
  | cons e rest ih =>
    by_cases he : e.1 = k
    · have : e.1 ≠ j := fun h => hj (h.symm.trans he)
      simp only [erase, List.filter, he, ne_eq, not_true_eq_false, decide_false]
      rw [show get dflt (e :: rest) j = get dflt rest j from by simp [get, this]]
      exact ih
    · simp only [erase, List.filter, he, ne_eq, not_false_eq_true, decide_true, get]
      rw [show List.filter (fun e => decide ¬e.1 = k) rest = erase k rest from rfl, ih]

omit [DecidableEq α] in
theorem get_erase_same (m : List (Nat × α)) (k : Nat) : get dflt (erase k m) k = dflt k := by
  induction m with
  | nil => rfl
  | cons e rest ih =>
    by_cases he : e.1 = k
    · simp only [erase, List.filter, he, ne_eq, not_true_eq_false, decide_false]
      exact ih
    · simp only [erase, List.filter, he, ne_eq, not_false_eq_true, decide_true, get]
      exact ih

/-- A value written is read back. -/
@[simp] theorem get_set_same (m : List (Nat × α)) (k : Nat) (v : α) : get dflt (set dflt m k v) k = v := by
  unfold set
  split
  · next hv => rw [get_erase_same, hv]
  · exact get_insert_same dflt m k v

/-- A write leaves every other index. -/
theorem get_set_other (m : List (Nat × α)) (k j : Nat) (v : α) (hj : j ≠ k) :
    get dflt (set dflt m k v) j = get dflt m j := by
  unfold set
  split
  · exact get_erase_other dflt m k j hj
  · exact get_insert_other dflt m k j v hj

end Sys2Proof.Machine.Sparse
end

