-- ==== Sys2Proof/Laws/Store.lean ====
section
/-! SUPPORT. What the queue engine's operations leave alone: every operation on the cell store keeps the payload slots
and keeps the canonical form of the owner and link words. -/

namespace Sys2Proof.Machine

/-- From one store to another the payload is the same, and owner and link words in canonical form stay so. -/
def Store.Keeps (a b : Store) : Prop := b.payload = a.payload ∧ (a.tablesWf → b.tablesWf)

theorem Store.Keeps.refl (a : Store) : a.Keeps a := ⟨rfl, id⟩

theorem Store.Keeps.trans {a b c : Store} (h : a.Keeps b) (k : b.Keeps c) : a.Keeps c :=
  ⟨k.1.trans h.1, fun w => k.2 (h.2 w)⟩

theorem Store.keeps_setOwner (s : Store) (c : CellIx) (w : Protected Owner) : s.Keeps (s.setOwner c w) :=
  ⟨rfl, fun h => ⟨Sparse.wf_set _ _ _ _ h.1, h.2⟩⟩

theorem Store.keeps_setLink (s : Store) (c : CellIx) (w : Protected Link) : s.Keeps (s.setLink c w) :=
  ⟨rfl, fun h => ⟨h.1, Sparse.wf_set _ _ _ _ h.2⟩⟩

theorem Store.payload_wf_setPayloadByte (s : Store) (c : CellIx) (i : Nat) (b : Byte)
    (h : Memory.wf s.payload = true) : Memory.wf (s.setPayloadByte c i b).payload = true :=
  Sparse.wf_set _ _ _ _ h

/-- A payload write keeps the canonical form of the three tables. -/
theorem Store.wf_setPayloadByte (s : Store) (c : CellIx) (i : Nat) (b : Byte) (h : s.wf) :
    (s.setPayloadByte c i b).wf := ⟨h.1, s.payload_wf_setPayloadByte c i b h.2⟩

theorem Store.wf_writePayload (s : Store) (c : CellIx) (bytes : List Byte) (h : s.wf) : (s.writePayload c bytes).wf := by
  unfold Store.writePayload
  generalize bytes.zipIdx = es
  induction es generalizing s with
  | nil => exact h
  | cons e rest ih => exact ih _ (s.wf_setPayloadByte c e.2 e.1 h)

namespace StoreRun

/-- A run's store keeps what another's has. -/
abbrev Keeps (a b : StoreRun) : Prop := a.store.Keeps b.store

variable (r : StoreRun)

theorem keeps_emit (e : StoreEffect) : Keeps r (r.emit e) := Store.Keeps.refl _

theorem keeps_check (u : Upset) (i : Nat) : Keeps r (r.check u i) := by
  unfold check
  split <;> exact Store.Keeps.refl _

theorem keeps_writeOwner (c : CellIx) (o : Owner) : Keeps r (r.writeOwner c o) := Store.keeps_setOwner _ _ _

theorem keeps_writeLink (c : CellIx) (l : Link) : Keeps r (r.writeLink c l) := Store.keeps_setLink _ _ _

theorem keeps_relink (c : CellIx) (n : Next) : Keeps r (r.relink c n) := Store.keeps_setLink _ _ _

theorem keeps_recordLength (c : CellIx) (len : Nat) : Keeps r (r.recordLength c len) := Store.keeps_setLink _ _ _

theorem keeps_readOwner (c : CellIx) : Keeps r (r.readOwner c).2 := by
  unfold readOwner
  dsimp only
  split
  · exact (keeps_check r _ _).trans (Store.keeps_setOwner _ _ _)
  · exact (keeps_check r _ _).trans (keeps_writeOwner _ _ _)

theorem keeps_readLink (c : CellIx) : Keeps r (r.readLink c).2 :=
  (keeps_check r _ _).trans (Store.keeps_setLink _ _ _)

theorem keeps_chainLink (c : CellIx) : Keeps r (r.chainLink c).2 := by
  have h := keeps_readLink r c
  unfold chainLink
  split
  · next heq => rw [heq] at h; exact h
  · next heq => rw [heq] at h; split <;> exact h

theorem keeps_readGeneration (q : QueueIx) : Keeps r (r.readGeneration q).2 := keeps_check r _ _

theorem keeps_readFreeGeneration : Keeps r r.readFreeGeneration.2 := keeps_check r _ _

theorem keeps_writeDescriptor (q : QueueIx) (d : Descriptor) : Keeps r (r.writeDescriptor q d) := by
  unfold writeDescriptor
  dsimp only
  split <;> exact Store.Keeps.refl _

theorem keeps_poolFell : Keeps r r.poolFell := by
  unfold poolFell
  split <;> exact Store.Keeps.refl _

theorem keeps_poolRose : Keeps r r.poolRose := by
  unfold poolRose
  split <;> exact Store.Keeps.refl _

theorem keeps_retire (c : CellIx) : Keeps r (r.retire c) := Store.Keeps.refl _

theorem keeps_push (c : CellIx) (g : Byte) : Keeps r (r.push c g) :=
  ((keeps_writeOwner r c _).trans (keeps_relink _ c _)).trans (keeps_poolRose _)

theorem keeps_freeCell (c : CellIx) : Keeps r (r.freeCell c).2 := by
  have h := keeps_readOwner r c
  unfold freeCell
  dsimp only
  split
  · exact h.trans (keeps_retire _ _)
  · have k := h.trans (keeps_readFreeGeneration _)
    split
    · exact k.trans (keeps_push _ _ _)
    · exact k

theorem keeps_breakFree : Keeps r r.breakFree := by
  have h := keeps_readFreeGeneration r
  unfold breakFree
  dsimp only
  refine Store.Keeps.trans ?_ (keeps_poolFell _)
  split <;> exact h

theorem keeps_breakQueue (q : QueueIx) (b : Bool) : Keeps r (r.breakQueue q b) := by
  have h := keeps_readGeneration r q
  unfold breakQueue
  dsimp only
  refine Store.Keeps.trans ?_ (keeps_writeDescriptor _ _ _)
  split <;> exact h

theorem keeps_openQueue (q : QueueIx) : Keeps r (r.openQueue q).2 := by
  have h := ((keeps_check r r.store.descriptors[q].upset0 (descriptorIndex q 0)).trans
    (keeps_check _ r.store.descriptors[q].upset1 (descriptorIndex q 1))).trans
    (keeps_check _ r.store.descriptors[q].upset2 (descriptorIndex q 2))
  unfold openQueue
  dsimp only
  generalize ((r.check r.store.descriptors[q].upset0 (descriptorIndex q 0)).check
    r.store.descriptors[q].upset1 (descriptorIndex q 1)).check
    r.store.descriptors[q].upset2 (descriptorIndex q 2) = r3 at h ⊢
  split
  · exact Store.Keeps.trans h (keeps_breakQueue (r3.modify _) q true)
  · exact h

theorem keeps_tag (q : QueueIx) (c : CellIx) : Keeps r (r.tag q c).2 := by
  have h := keeps_readOwner r c
  unfold tag
  dsimp only
  split
  · exact h
  · have k := h.trans (keeps_readGeneration _ q)
    split
    · exact k.trans (keeps_writeOwner _ _ _)
    · exact k

theorem keeps_append (q : QueueIx) (c : CellIx) (len : Nat) : Keeps r (r.append q c len) := by
  have h := (keeps_openQueue r q).trans (keeps_tag _ q c)
  unfold append
  dsimp only
  split
  · have k := h.trans (keeps_writeLink _ c ⟨.fin, len⟩)
    split
    · exact (k.trans (keeps_relink _ _ _)).trans (keeps_writeDescriptor _ _ _)
    · exact k.trans (keeps_writeDescriptor _ _ _)
  · exact h

theorem keeps_leadFirst (q : QueueIx) (c : CellIx) (len : Nat) (d : Descriptor) :
    Keeps r (r.leadFirst q c len d) := by
  have h := keeps_tag r q c
  unfold leadFirst
  dsimp only
  split
  · exact (h.trans (keeps_writeLink _ _ _)).trans (keeps_writeDescriptor _ _ _)
  · exact h

theorem keeps_leadBehind (q : QueueIx) (c : CellIx) (len : Nat) (d : Descriptor) (lt : CellIx) (next : Option CellIx)
    (ltLen : Nat) : Keeps r (r.leadBehind q c len d lt next ltLen) := by
  have h := keeps_tag r q c
  unfold leadBehind
  dsimp only
  split
  · exact ((h.trans (keeps_writeLink _ _ _)).trans (keeps_writeLink _ _ _)).trans (keeps_writeDescriptor _ _ _)
  · exact h

theorem keeps_lead (q : QueueIx) (c : CellIx) (len : Nat) : Keeps r (r.lead q c len) := by
  have h := keeps_openQueue r q
  unfold lead
  dsimp only
  split
  · exact h.trans (keeps_leadFirst _ _ _ _ _)
  · split
    · exact h.trans (keeps_leadFirst _ _ _ _ _)
    · next lt _ =>
      have k := h.trans (keeps_chainLink (r.openQueue q).2 lt)
      split
      · next heq => rw [heq] at k; exact k.trans (keeps_leadBehind _ _ _ _ _ _ _ _)
      · next heq => rw [heq] at k; exact (k.trans (keeps_breakQueue _ _ _)).trans (keeps_leadFirst _ _ _ _ _)

theorem keeps_followTo (tail : CellIx) (fuel : Nat) (at' : Option CellIx) : Keeps r (followTo tail fuel at' r).2 := by
  induction fuel generalizing at' r with
  | zero => exact Store.Keeps.refl _
  | succ fuel ih =>
    cases at' with
    | none => exact Store.Keeps.refl _
    | some c =>
      have k := keeps_chainLink r c
      unfold followTo
      split
      · next heq =>
        rw [heq] at k
        split
        · exact k
        · exact k.trans (ih _ _)
      · next heq => rw [heq] at k; exact k

theorem keeps_firstOrdinary (d : Descriptor) : Keeps r (r.firstOrdinary d).2 := by
  unfold firstOrdinary
  split
  · exact Store.Keeps.refl _
  · next lt _ =>
    have k := keeps_chainLink r lt
    split
    · next heq => rw [heq] at k; exact k
    · next heq => rw [heq] at k; exact k

theorem keeps_cutTail (q : QueueIx) (d : Descriptor) (before : Option CellIx) (tail : CellIx) :
    Keeps r (r.cutTail q d before tail) := by
  unfold cutTail
  refine Store.Keeps.trans ?_ (keeps_freeCell _ _)
  split
  · exact (keeps_relink _ _ _).trans (keeps_writeDescriptor _ _ _)
  · exact keeps_writeDescriptor _ _ _

theorem keeps_trim (q : QueueIx) : Keeps r (r.trim q) := by
  have h := keeps_openQueue r q
  unfold trim
  dsimp only
  split
  · exact h
  · split
    · exact h
    · next t _ =>
      split
      · exact h.trans (keeps_cutTail _ _ _ _ _)
      · have k := h.trans (keeps_firstOrdinary (r.openQueue q).2 (r.openQueue q).1)
        split
        · next heq => rw [heq] at k; exact k.trans (keeps_breakQueue _ _ _)
        · next first r1 heq =>
          rw [heq] at k
          split
          · next b r2 heq2 =>
            have m := keeps_followTo r1 t walkFuel first
            rw [heq2] at m
            exact (k.trans m).trans (keeps_cutTail _ _ _ _ _)
          · next r2 heq2 =>
            have m := keeps_followTo r1 t walkFuel first
            rw [heq2] at m
            exact (k.trans m).trans (keeps_breakQueue _ _ _)

theorem keeps_take (q : QueueIx) (hold : HoldName) (fh : Bool) : Keeps r (r.take q hold fh).2 := by
  have h := keeps_openQueue r q
  unfold take
  dsimp only
  split
  · exact h
  · split
    · exact h
    · next c _ =>
      have k := h.trans (keeps_readOwner _ c)
      have m := k.trans (keeps_chainLink _ c)
      split
      · next heq => rw [heq] at m; exact m.trans (keeps_breakQueue _ _ _)
      · next next' _ r1 heq =>
        rw [heq] at m
        have n := m.trans (keeps_writeDescriptor r1 q (takeHead (r.openQueue q).1 next'))
        split
        · exact n
        · have o := n.trans (keeps_writeOwner (r1.writeDescriptor q (takeHead (r.openQueue q).1 next')) c .held)
          exact o.trans ⟨rfl, id⟩

theorem keeps_freeChain (fuel : Nat) (at' : Option CellIx) (n : Nat) : Keeps r (freeChain fuel at' n r).2.2 := by
  induction fuel generalizing at' n r with
  | zero => exact Store.Keeps.refl _
  | succ fuel ih =>
    cases at' with
    | none => exact Store.Keeps.refl _
    | some c =>
      have k := keeps_chainLink r c
      unfold freeChain
      split
      · next heq => rw [heq] at k; exact k
      · next r1 heq =>
        rw [heq] at k
        have m := keeps_freeCell r1 c
        split
        · next heq2 => rw [heq2] at m; exact (k.trans m).trans (ih _ _ _)
        · next heq2 => rw [heq2] at m; exact k.trans m

theorem keeps_flush (q : QueueIx) : Keeps r (r.flush q).2 := by
  have h := keeps_openQueue r q
  unfold flush
  dsimp only
  split
  · exact h
  · have k := h.trans (keeps_freeChain (r.openQueue q).2 walkFuel (r.openQueue q).1.head 0)
    split
    · next heq => rw [heq] at k; exact k.trans (keeps_breakQueue _ _ _)
    · next heq => rw [heq] at k; exact k.trans (keeps_writeDescriptor _ _ _)

theorem keeps_pop : Keeps r r.pop.2 := by
  unfold pop
  split
  · exact Store.Keeps.refl _
  · next c _ =>
    have h := keeps_readOwner r c
    have k := h.trans (keeps_chainLink _ c)
    dsimp only
    split
    · next heq => rw [heq] at k; exact k.trans (keeps_breakFree _)
    · next heq =>
      rw [heq] at k
      split
      · exact k.trans (keeps_poolFell _)
      · exact k.trans (keeps_poolFell _)

theorem keeps_allocTry (urgent : Bool) (q : QueueIx) (fuel : Nat) : Keeps r (allocTry urgent q fuel r).2 := by
  induction fuel generalizing r with
  | zero => exact Store.Keeps.refl _
  | succ fuel ih =>
    unfold allocTry
    split
    · have k := keeps_pop r
      split
      · next heq => rw [heq] at k; exact k
      · next heq => rw [heq] at k; exact k.trans (ih _)
      · next heq => rw [heq] at k; exact k
    · split
      · have h := keeps_openQueue r q
        dsimp only
        split
        · exact (h.trans (keeps_trim _ q)).trans (ih _)
        · exact h
      · exact Store.Keeps.refl _

theorem keeps_allocate (urgent : Bool) (q : QueueIx) (hold : HoldName) (fh : Bool) :
    Keeps r (r.allocate urgent q hold fh).2 := by
  unfold allocate
  split
  · exact Store.Keeps.refl _
  · have k := keeps_allocTry r urgent q allocFuel
    split
    · next heq => rw [heq] at k; exact k
    · next c r1 heq =>
      rw [heq] at k
      exact k.trans (keeps_writeOwner r1 c .held)

theorem keeps_clearHold (hold : HoldName) : Keeps r (r.clearHold hold) := Store.Keeps.refl _

theorem keeps_release (hold : HoldName) : Keeps r (r.release hold) := by
  unfold release
  split
  · exact Store.Keeps.refl _
  · exact (keeps_clearHold r hold).trans (keeps_freeCell _ _)

theorem keeps_displace (q : QueueIx) (c : CellIx) (len : Nat) : Keeps r (r.displace q c len) := by
  have h := keeps_trim r q
  unfold displace
  dsimp only
  split
  · exact h.trans (keeps_lead _ _ _ _)
  · exact h.trans (keeps_freeCell _ _)

theorem keeps_admit (q : QueueIx) (urgent : Bool) (len : Nat) (hold : HoldName) (fh el : Bool) :
    Keeps r (r.admitOffer q urgent len hold fh el) := by
  unfold admitOffer
  split
  · exact Store.Keeps.refl _
  · have h := keeps_clearHold r hold
    dsimp only
    split
    · exact h.trans (keeps_freeCell _ _)
    · have k := h.trans (keeps_openQueue _ q)
      split
      · split
        · exact k.trans (keeps_lead _ _ _ _)
        · exact k.trans (keeps_append _ _ _ _)
      · split
        · exact k.trans (keeps_displace _ _ _ _)
        · exact k.trans (keeps_freeCell _ _)

theorem keeps_linkError (c : CellIx) : Keeps r (r.linkError c) := by
  have h := keeps_readOwner r c
  unfold linkError
  dsimp only
  split
  · next q _ _ =>
    have k := h.trans (keeps_readGeneration _ q)
    split
    · exact k.trans (keeps_breakQueue _ _ _)
    · exact k.trans ⟨rfl, fun w => ⟨w.1, Sparse.wf_set _ _ _ _ w.2⟩⟩
  · have k := h.trans (keeps_readFreeGeneration _)
    split
    · exact k.trans (keeps_breakFree _)
    · exact k.trans ⟨rfl, fun w => ⟨w.1, Sparse.wf_set _ _ _ _ w.2⟩⟩
  · exact h.trans ⟨rfl, fun w => ⟨w.1, Sparse.wf_set _ _ _ _ w.2⟩⟩
  · exact h.trans ⟨rfl, fun w => ⟨w.1, Sparse.wf_set _ _ _ _ w.2⟩⟩

theorem keeps_reclaimCell (c : CellIx) : Keeps r (r.reclaimCell c) := by
  have h := keeps_readFreeGeneration r
  unfold reclaimCell
  dsimp only
  split
  · exact h.trans (keeps_push _ _ _)
  · exact h

theorem keeps_reclaim (c : CellIx) (o : Owner) : Keeps r (r.reclaim c o) := by
  unfold reclaim
  dsimp only
  split
  · have h := keeps_readGeneration r
    split
    · split
      · exact h _
      · exact (h _).trans (keeps_reclaimCell _ _)
    · exact h _
  · have h := keeps_readFreeGeneration r
    split
    · split
      · exact h
      · exact h.trans (keeps_reclaimCell _ _)
    · exact h
  · exact Store.Keeps.refl _
  · exact Store.Keeps.refl _

theorem keeps_publish : Keeps r r.publish := Store.Keeps.refl _

theorem keeps_setLimits (q : QueueIx) (limit high : WideArg) : Keeps r (r.setLimits q limit high) :=
  (keeps_openQueue r q).trans (keeps_writeDescriptor _ _ _)

theorem keeps_readDescriptorWord (q : QueueIx) (w : Fin 3) : Keeps r (r.readDescriptorWord q w) := by
  have h := keeps_check r (r.store.descriptors[q].upset w) (descriptorIndex q w.val)
  unfold readDescriptorWord
  dsimp only
  generalize r.check (r.store.descriptors[q].upset w) (descriptorIndex q w.val) = r1 at h ⊢
  split
  · exact Store.Keeps.trans h (keeps_breakQueue (r1.modify _) q true)
  · exact h

theorem keeps_readLinkWord (c : CellIx) : Keeps r (r.readLinkWord c) := by
  have h := keeps_readLink r c
  unfold readLinkWord
  split
  · next heq => rw [heq] at h; exact h
  · next heq => rw [heq] at h; exact h.trans (keeps_linkError _ _)

theorem keeps_readOwnerWord (c : CellIx) (b : Bool) : Keeps r (r.readOwnerWord c b) := by
  have h := keeps_readOwner r c
  unfold readOwnerWord
  dsimp only
  split
  · exact h.trans (keeps_reclaim _ _ _)
  · exact h

/-- A checked read of any word of the store keeps the payload and the canonical form. -/
theorem keeps_readWord (i : Nat) (b : Bool) : Keeps r (r.readWord i b) := by
  unfold readWord
  split
  · exact keeps_readDescriptorWord _ _ _
  · split
    · exact keeps_readFreeGeneration _
    · exact keeps_readGeneration _ _
  · exact keeps_readOwnerWord _ _ _
  · exact keeps_readLinkWord _ _
  · exact Store.Keeps.refl _
  · exact Store.Keeps.refl _

end StoreRun

/-- The store that RESET PART rebuilds keeps the payload and is in canonical form. -/
theorem Store.rebuilt_wf (s : Store) (h : Memory.wf s.payload = true) : s.rebuilt.wf := ⟨⟨rfl, rfl⟩, h⟩

end Sys2Proof.Machine
end

