-- ==== Sys2Proof/Laws/Follows.lean ====
section
/-! SUPPORT. What consequent work leaves alone: every operation that one block's change causes in the others stays within
`Follows`. Each lemma says it from a state a that the operation's state b follows already, so that they chain. -/

namespace Sys2Proof.Machine

theorem BusRecord.Within.refl (b : BusRecord) : b.Within b := ⟨fun _ h => h, fun _ h => h⟩

theorem BusRecord.Within.trans {a b c : BusRecord} (y : c.Within b) (x : b.Within a) : c.Within a :=
  ⟨fun p h => x.1 p (y.1 p h), fun n h => x.2 n (y.2 n h)⟩

theorem Integrity.ErrorsStand.refl (a : Integrity) : a.ErrorsStand a := ⟨fun h => ⟨h, rfl⟩, fun _ h => ⟨h, rfl⟩⟩

theorem Integrity.ErrorsStand.trans {a b c : Integrity} (y : c.ErrorsStand b) (x : b.ErrorsStand a) : c.ErrorsStand a :=
  ⟨fun h => ⟨(y.1 (x.1 h).1).1, (y.1 (x.1 h).1).2.trans (x.1 h).2⟩,
   fun e h => ⟨(y.2 e (x.2 e h).1).1, (y.2 e (x.2 e h).1).2.trans (x.2 e h).2⟩⟩

theorem Relay.Onward.refl (a : Relay) : a.Onward a where
  stands _ := ⟨rfl, rfl⟩
  moves _ h := ⟨h, rfl⟩
  slots _ _ h := h
  entries _ h := Or.inl h
  bound _ _ h := h
  waits _ h _ _ _ := Or.inl h
  queue := id
  sound := id

/-- A pair at a position that no new entry names has entries there only if it had them before. -/
theorem Relay.Onward.entry_at {a b : Relay} (x : a.Onward b) {n : PairIx} (h1 : a.pairs[n].pos ≠ .through)
    (h2 : a.pairs[n].pos ≠ .isolated) (h : ∀ e ∈ a.entries, e.pair = n → e.target ≠ a.pairs[n].pos) :
    ∀ e ∈ b.entries, e.pair = n → e.target ≠ b.pairs[n].pos := by
  intro e he hn ht
  rw [(x.stands n).1] at ht
  rcases x.entries e he with h3 | h3 | h3
  · exact h e h3 hn ht
  · exact h1 (ht.symm.trans h3)
  · exact h2 (ht.symm.trans h3)

theorem Relay.Onward.trans {a b c : Relay} (x : a.Onward b) (y : b.Onward c) : a.Onward c where
  stands n := ⟨(y.stands n).1.trans (x.stands n).1, (y.stands n).2.trans (x.stands n).2⟩
  moves n h := ⟨(y.moves n (x.moves n h).1).1, (y.moves n (x.moves n h).1).2.trans (x.moves n h).2⟩
  slots i m h := y.slots i m (x.slots i m h)
  entries e h := (y.entries e h).elim (x.entries e) Or.inr
  bound n k h := x.bound n k (y.bound n k h)
  waits n h h1 h2 h3 := by
    rcases x.waits n h h1 h2 h3 with hb | hb
    · refine y.waits n hb ?_ ?_ (x.entry_at h1 h2 h3)
      · rw [(x.stands n).1]; exact h1
      · rw [(x.stands n).1]; exact h2
    · exact Or.inr (y.moves n hb).1
  queue h := y.queue (x.queue h)
  sound h := y.sound (x.sound h)

theorem Follows.refl (a : Hw) : Follows a a where
  seconds := rfl
  ports := rfl
  sense := rfl
  settings := rfl
  line := rfl
  payload := rfl
  config _ := rfl
  provisioned _ := rfl
  records _ := Or.inl rfl
  frozen _ _ := rfl
  tested _ := Or.inl rfl
  channels _ := ⟨rfl, id⟩
  flags _ _ _ h := h
  notices _ _ h := h
  poisoned _ h := h
  errors := .refl _
  undamaged _ u := ⟨u, id⟩
  buses _ := .refl _
  relay := .refl _
  tables := id
  once := id
  eligible := id
  orderly := id
  power := id

/-- Work that goes on from a state with another power unit. -/
theorem Follows.repower {a b c : Hw} (u : Power) (x : Follows a b) (hs : { b with power := u }.settings = b.settings)
    (y : Follows { b with power := u } c) (hp : a.powerSound → c.powerSound) : Follows a c where
  seconds := y.seconds.trans x.seconds
  ports := y.ports.trans x.ports
  sense := y.sense.trans x.sense
  settings := (y.settings.trans hs).trans x.settings
  line := y.line.trans x.line
  payload := y.payload.trans x.payload
  config p := (y.config p).trans (x.config p)
  provisioned n := (y.provisioned n).trans (x.provisioned n)
  records n := by
    rcases y.records n with hy | hy
    · exact (x.records n).imp hy.trans fun h p => y.notices p n (h p)
    · exact Or.inr hy
  frozen n h := (y.frozen n (x.poisoned n h)).trans (x.frozen n h)
  tested n := by
    rcases y.tested n with hy | hy
    · exact (x.tested n).imp hy.trans fun h => (Prod.mk.inj hy).2.trans h
    · exact Or.inr (hy.trans x.seconds)
  channels k := ⟨(y.channels k).1.trans (x.channels k).1, fun h => (y.channels k).2 ((x.channels k).2 h)⟩
  flags p g i h := y.flags p g i (x.flags p g i h)
  notices p n h := y.notices p n (x.notices p n h)
  poisoned n h := y.poisoned n (x.poisoned n h)
  errors := y.errors.trans x.errors
  undamaged n u := ⟨(y.undamaged n (x.undamaged n u).1).1,
    fun h => (x.undamaged n u).2 ((y.undamaged n (x.undamaged n u).1).2 h)⟩
  buses k := (y.buses k).trans (x.buses k)
  relay := x.relay.trans y.relay
  tables h := y.tables (x.tables h)
  once h := y.once (x.once h)
  eligible h := y.eligible (x.eligible h)
  orderly h := y.orderly (x.orderly h)
  power := hp

theorem Follows.trans {a b c : Hw} (x : Follows a b) (y : Follows b c) : Follows a c :=
  Follows.repower b.power x rfl y fun h => y.power (x.power h)

/-- A state equal to the present one in all that Follows speaks of. -/
theorem Follows.of_eq {a b c : Hw} (x : Follows a b)
    (h : c.seconds = b.seconds ∧ c.ports = b.ports ∧ c.sense = b.sense ∧ c.settings = b.settings
      ∧ c.line.kept = b.line.kept ∧ c.events = b.events ∧ c.pairTable.stored = b.pairTable.stored
      ∧ c.meas.channels = b.meas.channels
      ∧ (c.integ.faultHold, c.integ.holdCause, c.integ.pending, c.integ.gate)
          = (b.integ.faultHold, b.integ.holdCause, b.integ.pending, b.integ.gate)
      ∧ c.integ.poisoned = b.integ.poisoned ∧ c.store = b.store ∧ c.pairTable.notices = b.pairTable.notices
      ∧ c.testBus.bus = b.testBus.bus ∧ c.power = b.power ∧ (b.eligibleAgree → c.eligibleAgree)
      ∧ b.relay.Onward c.relay) : Follows a c := by
  obtain ⟨h1, h2, h3, h4, h5, h6, h7, h8, h9, h10, h11, h12, h14, h15, h13, h16⟩ := h
  have hs : ∀ n, storedPair c n = storedPair b n := fun n => by simp only [storedPair, h7]
  have hp : ∀ n, isPoisoned c n = isPoisoned b n := fun n => by simp only [isPoisoned, h10]
  obtain ⟨e1, e2, e3, e4⟩ : _ ∧ _ ∧ _ ∧ _ := by simpa only [Prod.mk.injEq] using h9
  exact x.trans {
    seconds := h1
    ports := h2
    sense := h3
    settings := h4
    line := h5
    payload := by rw [h11]
    config := fun p => by rw [h6]
    provisioned := fun n => by simp only [Hw.provisioned, hs]
    records := fun n => Or.inl (by rw [hs])
    frozen := fun n _ => by rw [hs]
    tested := fun n => Or.inl (by rw [hs])
    channels := fun k => by unfold channelOf; rw [h8]; exact ⟨rfl, id⟩
    flags := fun p g i => by simp only [Hw.flag, h6]; exact id
    notices := by rw [h12]; exact fun _ _ h => h
    poisoned := fun n h => by rw [hp]; exact h
    errors := by
      unfold Integrity.ErrorsStand
      rw [e1, e2, e3, e4]
      exact ⟨fun h => ⟨h, rfl⟩, fun _ h => ⟨h, rfl⟩⟩
    undamaged := fun n u => by simp only [Hw.undamaged, hs, hp] at u ⊢; exact ⟨u, id⟩
    buses := by simp only [busRecord, h14]; exact fun _ => .refl _
    relay := h16
    tables := by rw [h11]; exact id
    once := by unfold Hw.noticesOnce; rw [h12]; exact id
    eligible := h13
    orderly := by simp only [Hw.orderly, busRecord, h14]; exact id
    power := by simp only [Hw.powerSound, Hw.pairPowerSound, hp, hs, h15]; exact id }

theorem Follows.foldl {α : Type} {a : Hw} {f : Hw → α → Hw} (hf : ∀ b x, Follows a b → Follows a (f b x)) (l : List α)
    {b : Hw} (h : Follows a b) : Follows a (l.foldl f b) := by
  induction l generalizing b with
  | nil => exact h
  | cons x rest ih => exact ih (hf b x h)

/-! ### Events -/

theorem EventPort.config_raise (e : EventPort) (f : EventFlag) : (e.raise f).config = e.config := by
  unfold EventPort.raise
  split <;> rfl

/-- A flag that is set stays set when another is posted (R187). -/
theorem EventPort.raise_keeps (e : EventPort) (f : EventFlag) (g : Fin 8) (i : Nat) (h : e.pending[g].getLsbD i = true) :
    (e.raise f).pending[g].getLsbD i = true := by
  unfold EventPort.raise
  split
  · by_cases hg : f.group = g
    · subst hg; simp at h ⊢; exact Or.inl h
    · have : (f.group.val : Nat) ≠ g.val := fun x => hg (Fin.ext x)
      simp only [Fin.getElem_fin, Vector.getElem_set, if_neg this] at h ⊢
      exact h
  · exact h

theorem Follows.events {a b : Hw} (h : Follows a b) (ev : PerPort EventPort)
    (hc : ∀ p, (ev.get p).config = (b.events.get p).config)
    (hk : ∀ p (g : Fin 8) i, (b.events.get p).pending[g].getLsbD i = true → (ev.get p).pending[g].getLsbD i = true) :
    Follows a { b with events := ev } :=
  h.trans { Follows.refl b with config := hc, flags := hk }

theorem Follows.post {a b : Hw} (f : EventFlag) (h : Follows a b) : Follows a (post f b) := by
  refine h.events _ (fun p => ?_) (fun p g i => ?_)
  · cases p <;> exact EventPort.config_raise _ _
  · cases p <;> exact EventPort.raise_keeps _ _ _ _

theorem Follows.raiseAt {a b : Hw} (p : Port) (f : EventFlag) (h : Follows a b) : Follows a (raiseAt p f b) := by
  refine h.events _ (fun q => ?_) (fun q g i => ?_)
  · cases p <;> cases q <;> first | rfl | exact EventPort.config_raise _ _
  · cases p <;> cases q <;> first | exact id | exact EventPort.raise_keeps _ _ _ _

/-! ### Shared operations -/

theorem Follows.send {a b : Hw} (r : Request) (h : Follows a b) : Follows a (send r b) := { h with }
theorem Follows.report {a b : Hw} (n : PairIx) (e : Bool) (h : Follows a b) : Follows a (report n e b) := by
  refine h.of_eq ⟨rfl, rfl, rfl, rfl, rfl, rfl, rfl, rfl, rfl, rfl, rfl, rfl, rfl, rfl, fun w => ?_, .refl _⟩
  unfold Hw.eligibleAgree at w
  simp only [Hw.eligibleAgree, Sys2Proof.Machine.report, w]
theorem Follows.refresh {a b : Hw} (n : PairIx) (h : Follows a b) : Follows a (refresh n b) := h.report n _
theorem Follows.endExchange {a b : Hw} (h : Follows a b) : Follows a (endExchange b) := by
  refine h.of_eq ?_
  simp only [Sys2Proof.Machine.endExchange, Hw.settings, LineBus.kept, Hw.eligibleAgree, implies_true,
    true_and]
  exact .refl _

theorem Follows.noteCorrected {a b : Hw} (h : Follows a b) : Follows a (noteCorrected b) := by
  unfold Sys2Proof.Machine.noteCorrected
  split
  · exact h
  · dsimp only
    split
    · exact Follows.post _ { h with }
    · exact { h with }

theorem Follows.enterFaultHold {a b : Hw} (k : HoldKind) (i : Nat) (h : Follows a b)
    (hb : b.integ.faultHold = false) : Follows a (enterFaultHold k i b) := by
  have h1 : Follows a
      { b with integ := { b.integ with faultHold := true, holdCause := some (k, ⟨i, b.seconds⟩) } } :=
    h.trans { Follows.refl b with errors := ⟨fun e => (by rw [hb] at e; cases e), fun _ e => ⟨e, rfl⟩⟩ }
  exact { (h1.post .faultHold).endExchange with }

theorem Follows.recordError {a b : Hw} (i : Nat) (h : Follows a b) : Follows a (recordError i b) := by
  unfold Sys2Proof.Machine.recordError
  split
  · next hp =>
    exact Follows.post _ (h.trans { Follows.refl b with
      errors := ⟨fun e => ⟨e, rfl⟩, fun e he => (by rw [hp] at he; cases he)⟩ })
  · split
    · exact h
    · next hf => exact h.enterFaultHold _ _ (by simpa using hf)

theorem Follows.recordUncorrectable {a b : Hw} (i : Nat) (h : Follows a b) : Follows a (recordUncorrectable i b) := by
  unfold Sys2Proof.Machine.recordUncorrectable
  split
  · exact h
  · next hk =>
    split
    · next ha =>
      refine h.enterFaultHold _ _ ?_
      simp only [isKnown, ha, Bool.or_eq_true, not_or, Bool.not_eq_true] at hk
      exact hk.1
    · exact h.recordError _

theorem Follows.joinNotice {a b : Hw} (n : PairIx) (p : Port) (h : Follows a b) : Follows a (joinNotice n p b) := by
  unfold Sys2Proof.Machine.joinNotice
  split
  · exact h
  · next hn =>
    refine Follows.raiseAt p .notice (h.trans { Follows.refl b with
      records := fun _ => Or.inl rfl, notices := fun q m hm => ?_, once := fun w q => ?_ })
    · cases p <;> cases q <;> first | exact hm | exact List.mem_append_left _ hm
    · have hp : (b.pairTable.notices.get p ++ [n]).Nodup := by
        rw [List.nodup_append]
        refine ⟨w p, List.nodup_singleton n, fun x hx y hy => ?_⟩
        rw [List.mem_singleton] at hy
        subst hy
        exact fun e => hn (e ▸ hx)
      have hq := w q
      cases p <;> cases q <;> first | exact hp | exact hq

theorem Follows.postNotice {a b : Hw} (n : PairIx) (h : Follows a b) : Follows a (postNotice n b) :=
  ((h.joinNotice n .sup).joinNotice n .trk).joinNotice n .tst

theorem mem_joinNotice (n : PairIx) (p : Port) (h : Hw) : n ∈ (joinNotice n p h).pairTable.notices.get p := by
  unfold joinNotice
  split
  · assumption
  · cases p <;> exact List.mem_append_right _ (List.mem_singleton_self n)

/-- A notice posted for a pair stands at every port (R16). -/
theorem mem_postNotice (n : PairIx) (h : Hw) (p : Port) : n ∈ (postNotice n h).pairTable.notices.get p := by
  unfold postNotice
  cases p
  · exact ((Follows.refl _).joinNotice n .trk |>.joinNotice n .tst).notices _ _ (mem_joinNotice n .sup h)
  · exact ((Follows.refl _).joinNotice n .tst).notices _ _ (mem_joinNotice n .trk _)
  · exact mem_joinNotice n .tst _

/-- A posting of a notice leaves the stored parts. -/
theorem joinNotice_stored (n : PairIx) (p : Port) (h : Hw) : (joinNotice n p h).pairTable.stored = h.pairTable.stored := by
  unfold joinNotice
  split <;> rfl

theorem storedPair_postNotice (n m : PairIx) (h : Hw) : storedPair (postNotice n h) m = storedPair h m := by
  simp only [storedPair, postNotice, joinNotice_stored]

/-- A write of a pair's stored part and a posting of the notice, which leave service, tier and weight; the posting may be
left out when the values stand. -/
theorem Follows.write {a b c : Hw} (n : PairIx) (x : StoredPair) (h : Follows a b) (y : Follows (setStored n x b) c)
    (hc : ∀ m, storedPair c m = storedPair (setStored n x b) m)
    (hs : x.first.val.service = (storedPair b n).first.val.service)
    (ht : x.first.val.tier = (storedPair b n).first.val.tier)
    (hw : x.first.val.weight = (storedPair b n).first.val.weight)
    (hu : b.undamaged n → x.first.upset = .none ∧ x.second.upset = .none ∧ x.third.upset = .none)
    (hr : x.vals = (storedPair b n).vals ∨ ∀ p, n ∈ c.pairTable.notices.get p)
    (hf : isPoisoned b n = true → x.vals = (storedPair b n).vals)
    (hl : x.lastTest = (storedPair b n).lastTest ∨ x.third.val = b.seconds) : Follows a c := by
  have self : storedPair c n = x := (hc n).trans (storedPair_setStored_same b n x)
  have other : ∀ m, n ≠ m → storedPair c m = storedPair b m := fun m hm =>
    (hc m).trans (storedPair_setStored_other b x hm)
  have prov : ∀ m, (setStored n x b).provisioned m = b.provisioned m := fun m => by
    by_cases hn : n = m
    · subst hn
      simp only [Hw.provisioned, storedPair_setStored_same, hs, ht, hw]
    · simp only [Hw.provisioned, storedPair_setStored_other b x hn]
  refine h.trans { y with
    provisioned := fun m => (y.provisioned m).trans (prov m)
    records := fun m => ?_
    frozen := fun m hm => ?_
    tested := fun m => ?_
    undamaged := fun m u => ?_
    power := fun w => y.power fun m => ?_ }
  · by_cases hn : n = m
    · subst hn; rw [self]; exact hr
    · rw [other m hn]; exact Or.inl rfl
  · by_cases hn : n = m
    · subst hn; rw [self]; exact hf hm
    · rw [other m hn]
  · by_cases hn : n = m
    · subst hn; rw [self]; exact hl
    · rw [other m hn]; exact Or.inl rfl
  · refine y.undamaged m ?_
    by_cases hn : n = m
    · subst hn
      unfold Hw.undamaged
      rw [storedPair_setStored_same]
      exact hu u
    · unfold Hw.undamaged
      rw [storedPair_setStored_other b x hn]
      exact u
  · have wm := w m
    by_cases hn : n = m
    · subst hn
      simp only [Hw.pairPowerSound, storedPair_setStored_same, hs, ht] at wm ⊢
      exact wm
    · unfold Hw.pairPowerSound at wm ⊢
      rw [storedPair_setStored_other b x hn]
      exact wm

/-- A write of a pair's stored part that leaves every value. -/
theorem Follows.rewrite {a b : Hw} (n : PairIx) (x : StoredPair) (h : Follows a b)
    (hx : x.vals = (storedPair b n).vals)
    (hu : b.undamaged n → x.first.upset = .none ∧ x.second.upset = .none ∧ x.third.upset = .none) :
    Follows a (setStored n x b) := by
  have h1 : x.first.val = (storedPair b n).first.val := congrArg Prod.fst hx
  exact h.write n x (.refl _) (fun _ => rfl) (by rw [h1]) (by rw [h1]) (by rw [h1]) hu (Or.inl hx) (fun _ => hx)
    (Or.inl (congrArg Prod.snd hx))

/-- A write of a pair's stored part with its notice (R14, R16). -/
theorem Follows.writeNotice {a b : Hw} (n : PairIx) (x : StoredPair) (h : Follows a b) (hp : isPoisoned b n = false)
    (hs : x.first.val.service = (storedPair b n).first.val.service)
    (ht : x.first.val.tier = (storedPair b n).first.val.tier)
    (hw : x.first.val.weight = (storedPair b n).first.val.weight)
    (hu : b.undamaged n → x.first.upset = .none ∧ x.second.upset = .none ∧ x.third.upset = .none)
    (hl : x.lastTest = (storedPair b n).lastTest ∨ x.third.val = b.seconds) :
    Follows a (Sys2Proof.Machine.postNotice n (Sys2Proof.Machine.setStored n x b)) :=
  h.write n x ((Follows.refl _).postNotice n) (fun m => storedPair_postNotice n m _) hs ht hw hu
    (Or.inr fun p => mem_postNotice n _ p) (fun e => by rw [hp] at e; cases e) hl

theorem Follows.stepRecord {a b : Hw} (n : PairIx) (h : Follows a b) : Follows a (stepRecord n b) := by
  unfold Sys2Proof.Machine.stepRecord
  split
  · exact h.postNotice n
  · next hp =>
    exact h.writeNotice n _ (by simpa using hp) rfl rfl rfl (fun u => ⟨rfl, u.2.1, u.2.2⟩) (Or.inl rfl)

theorem Follows.recordChanged {a b : Hw} (n : PairIx) (h : Follows a b) : Follows a (recordChanged n b) :=
  (h.stepRecord n).refresh n

/-! ### The cell store -/

theorem Follows.applyEffect {a b : Hw} (e : StoreEffect) (h : Follows a b) : Follows a (applyEffect b e) := by
  cases e with
  | corrected => exact h.noteCorrected
  | uncorrectable i => exact h.recordUncorrectable i
  | brokenRead i => exact h.recordError i
  | event f => exact h.post f
  | congested q =>
    dsimp only [Sys2Proof.Machine.applyEffect]
    split
    · exact h.stepRecord _
    · exact h

theorem Follows.setStore {a b : Hw} (s : Store) (h : Follows a b) (k : b.store.Keeps s) :
    Follows a { b with store := s } :=
  h.trans { Follows.refl b with payload := k.1, tables := k.2 }

/-- A run of the queue engine that keeps payload and canonical form, with its effects elsewhere. -/
theorem Follows.runStore {a b : Hw} (r : StoreRun) (h : Follows a b) (k : b.store.Keeps r.store) :
    Follows a (runStore r b) :=
  Follows.foldl (fun _ e h => h.applyEffect e) r.out (h.setStore r.store k)

theorem Follows.releaseHold {a b : Hw} (x : HoldName) (h : Follows a b) : Follows a (releaseHold x b) :=
  h.runStore _ (StoreRun.keeps_release (storeRun b) x)

theorem Follows.flushQueue {a b : Hw} (q : QueueIx) (h : Follows a b) : Follows a (flushQueue q b) :=
  h.runStore _ (StoreRun.keeps_flush (storeRun b) q)

theorem Follows.flushPair {a b : Hw} (n : PairIx) (h : Follows a b) : Follows a (flushPair n b) :=
  (h.flushQueue (upq n)).flushQueue (dnq n)

/-! ### The pair table -/

theorem Follows.poison {a b : Hw} (n : PairIx) (h : Follows a b) (hd : ¬ b.undamaged n) : Follows a (poison n b) := by
  unfold Sys2Proof.Machine.poison
  split
  · exact h
  · have h1 : Follows a (setPowerPair n { b.power.pairs[n] with frozen := true }
        { b with integ := { b.integ with poisoned := b.integ.poisoned.set n true } }) := by
      refine h.trans { Follows.refl b with
        poisoned := fun m hm => ?_, undamaged := fun m u => ⟨u, fun hm => ?_⟩, power := fun w m => ?_ }
      · by_cases hn : n.val = m.val
        · simp [isPoisoned, setPowerPair, hn]
        · simpa [isPoisoned, setPowerPair, Vector.getElem_set, hn] using hm
      · by_cases hn : n = m
        · subst hn; exact absurd u hd
        · have : n.val ≠ m.val := fun e => hn (Fin.ext e)
          simpa [isPoisoned, setPowerPair, Vector.getElem_set, this] using hm
      · have wm := w m
        by_cases hn : n = m
        · subst hn
          simp [Hw.pairPowerSound, isPoisoned, setPowerPair]
        · have : n.val ≠ m.val := fun e => hn (Fin.ext e)
          simp [Hw.pairPowerSound, isPoisoned, setPowerPair, storedPair, this] at wm ⊢
          exact wm
    exact (((h1.flushPair n).refresh n).send _).postNotice n

theorem Protected.afterRead_val {α : Type} (w : Protected α) : w.afterRead.val = w.val := by
  unfold Protected.afterRead
  split <;> rfl

theorem StoredPair.correct_vals (x : StoredPair) (w : Fin 3) : (x.correct w).vals = x.vals := by
  match w with
  | 0 => simp [StoredPair.vals, StoredPair.correct, Protected.afterRead_val]
  | 1 => simp [StoredPair.vals, StoredPair.correct, Protected.afterRead_val]
  | 2 => simp [StoredPair.vals, StoredPair.correct, Protected.afterRead_val]

theorem StoredPair.correct_upset (x : StoredPair) (w : Fin 3)
    (h : x.first.upset = .none ∧ x.second.upset = .none ∧ x.third.upset = .none) :
    (x.correct w).first.upset = .none ∧ (x.correct w).second.upset = .none ∧ (x.correct w).third.upset = .none := by
  obtain ⟨h1, h2, h3⟩ := h
  match w with
  | 0 => simp [StoredPair.correct, Protected.afterRead, h1, h2, h3]
  | 1 => simp [StoredPair.correct, Protected.afterRead, h1, h2, h3]
  | 2 => simp [StoredPair.correct, Protected.afterRead, h1, h2, h3]

theorem Hw.undamaged.upset {h : Hw} {n : PairIx} (u : h.undamaged n) (w : Fin 3) : (storedPair h n).upset w = .none := by
  match w with
  | 0 => exact u.1
  | 1 => exact u.2.1
  | 2 => exact u.2.2

theorem recordUncorrectable_stored (i : Nat) (h : Hw) :
    (recordUncorrectable i h).pairTable.stored = h.pairTable.stored := by
  unfold recordUncorrectable
  split
  · rfl
  · split
    · rfl
    · unfold recordError
      split
      · rfl
      · split <;> rfl

theorem Follows.checkPairWord {a b : Hw} (n : PairIx) (w : Fin 3) (h : Follows a b) : Follows a (checkPairWord n w b) := by
  unfold Sys2Proof.Machine.checkPairWord
  split
  · exact h
  · exact Follows.noteCorrected (h.rewrite n _ (StoredPair.correct_vals _ w) (StoredPair.correct_upset _ w))
  · next ho =>
    refine (h.recordUncorrectable _).poison n fun u => ?_
    have e : storedPair (Sys2Proof.Machine.recordUncorrectable (pairIndex n w.val) b) n = storedPair b n := by
      simp only [storedPair, recordUncorrectable_stored]
    have u' : b.undamaged n := by
      unfold Hw.undamaged at u ⊢
      rwa [e] at u
    rw [u'.upset w] at ho
    cases ho

theorem Follows.checkPair {a b : Hw} (n : PairIx) (h : Follows a b) : Follows a (checkPair n b) :=
  ((h.checkPairWord n 0).checkPairWord n 1).checkPairWord n 2

theorem Follows.changing {a b : Hw} (n : PairIx) (f : Hw → Hw) (h : Follows a (f b)) : Follows a (changing n f b) := by
  unfold Sys2Proof.Machine.changing
  dsimp only
  split
  · exact (h.refresh n).flushPair n
  · exact h.refresh n

/-- A change of a record that has been written in the same event is one write with one notice. -/
theorem stepRecord_setStored (n : PairIx) (x : StoredPair) (h : Hw) (hp : isPoisoned h n = false) :
    stepRecord n (setStored n x h) = postNotice n (setStored n
      { x with first := .fresh { x.first.val with version := x.first.val.version + 1 } } h) := by
  have hp' : isPoisoned (setStored n x h) n = false := hp
  unfold stepRecord
  rw [if_neg (by simp [hp'])]
  dsimp only [writeFirst]
  rw [storedPair_setStored_same]
  simp [setStored, Vector.set_set]

theorem Follows.writeSummary {a b : Hw} (n : PairIx) (v : Verdict) (p : Option (Fin 16)) (h : Follows a b) :
    Follows a (writeSummary n v p b) := by
  unfold Sys2Proof.Machine.writeSummary
  split
  · exact h
  · have k := h.checkPair n
    generalize Sys2Proof.Machine.checkPair n b = d at k ⊢
    dsimp only
    split
    · exact k
    · split
      · exact k
      · next hp _ =>
        rw [stepRecord_setStored n _ _ (by simpa using hp)]
        exact k.writeNotice n _ (by simpa using hp) rfl rfl rfl (fun _ => ⟨rfl, rfl, rfl⟩) (Or.inr rfl)

/-! ### The relay unit -/

/-- Positions, guards and settings stand, and requests and starts of return and guard moves alone have happened. -/
def Relay.Keeps (a b : Relay) : Prop :=
  (b.settleTime = a.settleTime ∧ b.guardTime = a.guardTime ∧ b.guardTimers = a.guardTimers
    ∧ b.surgeLevels = a.surgeLevels) ∧ a.Onward b

theorem Relay.Keeps.refl (a : Relay) : a.Keeps a := ⟨⟨rfl, rfl, rfl, rfl⟩, .refl a⟩

theorem Relay.Keeps.trans {a b c : Relay} (x : a.Keeps b) (y : b.Keeps c) : a.Keeps c :=
  ⟨⟨y.1.1.trans x.1.1, y.1.2.1.trans x.1.2.1, y.1.2.2.1.trans x.1.2.2.1, y.1.2.2.2.trans x.1.2.2.2⟩, x.2.trans y.2⟩

theorem busPos_ne_through (k : BusId) : busPos k ≠ .through := by cases k <;> decide

theorem busPos_ne_isolated (k : BusId) : busPos k ≠ .isolated := by cases k <;> decide

/-- A change of the relay queue alone, in which each pair that waited waits still, unless it stands where an entry of it
would send it. -/
theorem Relay.Keeps.queue (a : Relay) (g l : List Entry)
    (he : ∀ e ∈ g ++ l, e ∈ a.entries ∨ e.target = .through ∨ e.target = .isolated)
    (hw : ∀ n, a.waits n → (∃ e ∈ g ++ l, e.pair = n) ∨ ∃ e ∈ a.entries, e.pair = n ∧ e.target = a.pairs[n].pos)
    (hq : a.queueGood → ({ a with guardSection := g, normalSection := l } : Relay).queueGood) :
    a.Keeps { a with guardSection := g, normalSection := l } := by
  refine ⟨⟨rfl, rfl, rfl, rfl⟩, {
    stands := fun _ => ⟨rfl, rfl⟩
    moves := fun _ h => ⟨h, rfl⟩
    slots := fun _ _ h => h
    entries := he
    bound := fun n k hb => ?_
    waits := fun n h _ _ hn => ?_
    queue := hq
    sound := id }⟩
  · rcases hb with hb | ⟨e, h1, h2, h3⟩
    · exact Or.inl hb
    · rcases he e h1 with h | h | h
      · exact Or.inr ⟨e, h, h2, h3⟩
      · exact absurd (h3.symm.trans h) (busPos_ne_through k)
      · exact absurd (h3.symm.trans h) (busPos_ne_isolated k)
  · rcases hw n h with h | ⟨e, h1, h2, h3⟩
    · exact Or.inl h
    · exact absurd h3 (hn e h1 h2)

/-- A change of a pair that leaves position, moving and target keeps the relays sound. -/
theorem Relay.sound_setPair (a : Relay) (n : PairIx) (x : RelayPair) (hp : x.pos = a.pairs[n].pos)
    (hm : x.moving = a.pairs[n].moving) (ht : x.target = a.pairs[n].target) (h : a.sound) :
    ({ a with pairs := a.pairs.set n x } : Relay).sound := by
  have e : ∀ m : PairIx, (a.pairs.set n x)[m].pos = a.pairs[m].pos ∧ (a.pairs.set n x)[m].moving = a.pairs[m].moving
      ∧ (a.pairs.set n x)[m].target = a.pairs[m].target := by
    intro m
    by_cases hn : n.val = m.val
    · have : n = m := Fin.ext hn
      subst this
      simp at hp hm ht ⊢
      exact ⟨hp, hm, ht⟩
    · simp [hn]
  obtain ⟨h1, h2, h3, h4, h5⟩ := h
  refine ⟨fun k i j hi hj => h1 k i j ?_ ?_, fun i hi => ?_, fun i hi => ?_, fun i m hm => ?_, h5⟩
  · simpa only [RelayPair.near, (e i).1, (e i).2.2] using hi
  · simpa only [RelayPair.near, (e j).1, (e j).2.2] using hj
  · rw [(e i).1, (e i).2.2]; exact h2 i ((e i).2.1 ▸ hi)
  · exact h3 i ((e i).2.1 ▸ hi)
  · rw [(e m.pair).2.1, (e m.pair).2.2]; exact h4 i m hm

namespace RelayRun

abbrev Keeps (a b : RelayRun) : Prop := a.relay.Keeps b.relay

variable (r : RelayRun)

theorem keeps_reportDone (n : PairIx) (p : RelayPos) (q : Requester) : Keeps r (r.reportDone n p q) := by
  cases q <;> exact Relay.Keeps.refl _

theorem busClear_spec {u : Relay} {n : PairIx} {k : RelayPos} (h : busClear u n k = true) (m : PairIx) (hm : m ≠ n) :
    ¬ u.pairs[m].near k := by
  unfold busClear at h
  rw [List.all_eq_true] at h
  have := h m (List.mem_finRange m)
  simp only [Bool.or_eq_true, Bool.and_eq_true, bne_iff_ne, ne_eq, beq_iff_eq] at this
  rcases this with h | h
  · exact absurd h hm
  · exact fun c => c.elim h.1.1 h.1.2

theorem startable_spec {u : Relay} {e : Entry} (h : startable u e = true) :
    u.pairs[e.pair].moving = false ∧ ∀ (k : BusId) (m : PairIx), e.target = busPos k → m ≠ e.pair →
      ¬ u.pairs[m].near (busPos k) := by
  unfold startable at h
  rw [Bool.and_eq_true] at h
  refine ⟨by simpa using h.1, fun k m hk hm => ?_⟩
  have h2 := h.2
  rw [hk] at h2
  cases k <;> exact busClear_spec h2 m hm

/-- The relay unit in which a move of an entry has started (R86). -/
theorem startMove_spec (i : SlotIx) (e : Entry) :
    (r.startMove i e).relay.pairs[e.pair]
        = { r.relay.pairs[e.pair] with moving := true, target := e.target, drive := some e.target }
    ∧ (∀ m : PairIx, m ≠ e.pair → (r.startMove i e).relay.pairs[m] = r.relay.pairs[m])
    ∧ (r.startMove i e).relay.slots[i] = some ⟨e.pair, e.target, e.requester, r.relay.settleTime⟩
    ∧ (∀ j : SlotIx, j ≠ i → (r.startMove i e).relay.slots[j] = r.relay.slots[j]) := by
  refine ⟨by simp [startMove, setPair, modify, emit], fun m hm => ?_, by simp [startMove, setPair, modify, emit],
    fun j hj => ?_⟩
  · have : e.pair.val ≠ m.val := fun x => hm (Fin.ext x.symm)
    simp [startMove, setPair, modify, emit, this]
  · have : i.val ≠ j.val := fun x => hj (Fin.ext x.symm)
    simp [startMove, setPair, modify, emit, this]

theorem sound_startMove (i : SlotIx) (e : Entry) (hi : r.relay.slots[i] = none) (he : startable r.relay e = true)
    (h : r.relay.sound) : (r.startMove i e).relay.sound := by
  obtain ⟨h1, h2, h3, h4, h5⟩ := h
  obtain ⟨e1, e2⟩ := startable_spec he
  obtain ⟨p_self, p_other, s_self, s_other⟩ := startMove_spec r i e
  have slot : ∀ (j : SlotIx) (m : Move), (r.startMove i e).relay.slots[j] = some m →
      (j = i ∧ m = ⟨e.pair, e.target, e.requester, r.relay.settleTime⟩)
      ∨ (j ≠ i ∧ r.relay.slots[j] = some m ∧ m.pair ≠ e.pair) := by
    intro j m hm
    by_cases hj : j = i
    · subst hj
      rw [s_self] at hm
      exact Or.inl ⟨rfl, (Option.some.inj hm).symm⟩
    · rw [s_other j hj] at hm
      refine Or.inr ⟨hj, hm, fun c => ?_⟩
      have := (h4 j m hm).1
      simp only [c, e1] at this
      cases this
  have near : ∀ (k : BusId) (m : PairIx), (r.startMove i e).relay.pairs[m].near (busPos k) →
      r.relay.pairs[m].near (busPos k) ∨ (m = e.pair ∧ e.target = busPos k) := by
    intro k m hm
    by_cases hp : m = e.pair
    · subst hp
      rw [p_self] at hm
      rcases hm with hm | hm
      · exact Or.inl (Or.inl hm)
      · exact Or.inr ⟨rfl, hm⟩
    · rw [p_other m hp] at hm
      exact Or.inl hm
  refine ⟨fun k n m hn hm => ?_, fun n hn => ?_, fun n hn => ?_, fun j m hm => ?_, fun j l m o hm ho hp => ?_⟩
  · rcases near k n hn with hn | ⟨rfl, ht⟩ <;> rcases near k m hm with hm | ⟨rfl, hu⟩
    · exact h1 k n m hn hm
    · by_contra c
      exact e2 k n hu c hn
    · by_contra c
      exact e2 k m ht (Ne.symm c) hm
    · rfl
  · by_cases hp : n = e.pair
    · subst hp
      rw [p_self] at hn
      cases hn
    · rw [p_other n hp] at hn ⊢
      exact h2 n hn
  · by_cases hp : n = e.pair
    · exact ⟨i, _, s_self, hp.symm⟩
    · rw [p_other n hp] at hn
      obtain ⟨j, m, hm, hmp⟩ := h3 n hn
      have : j ≠ i := fun c => by subst c; rw [hi] at hm; cases hm
      exact ⟨j, m, by rw [s_other j this]; exact hm, hmp⟩
  · rcases slot j m hm with ⟨rfl, rfl⟩ | ⟨_, hm, hp⟩
    · rw [p_self]; exact ⟨rfl, rfl⟩
    · rw [p_other _ hp]; exact h4 j m hm
  · rcases slot j m hm with ⟨rfl, rfl⟩ | ⟨_, hm, hp1⟩ <;> rcases slot l o ho with ⟨rfl, rfl⟩ | ⟨_, ho, hp2⟩
    · rfl
    · exact absurd hp.symm hp2
    · exact absurd hp hp1
    · exact h5 j l m o hm ho hp

theorem mem_entries_dropEntry {u : Relay} {n : PairIx} {e : Entry} :
    e ∈ (dropEntry n u).entries ↔ e ∈ u.entries ∧ e.pair ≠ n := by
  simp [Relay.entries, dropEntry, or_and_right]

theorem queueGood_dropEntry {u : Relay} (n : PairIx) (h : u.queueGood) : (dropEntry n u).queueGood := by
  obtain ⟨h1, h2, h3⟩ := h
  refine ⟨List.Nodup.sublist (List.Sublist.map _ ?_) h1, fun e he => h2 e ?_, fun e he => h3 e ?_⟩
  · exact (List.filter_sublist ..).append (List.filter_sublist ..)
  · exact List.mem_of_mem_filter he
  · exact List.mem_of_mem_filter he

/-- An entry whose pair stands at its target leaves the queue (R89). -/
theorem keeps_done {u : Relay} {e : Entry} (he : e ∈ u.entries) (ht : e.target = u.pairs[e.pair].pos) :
    u.Keeps (dropEntry e.pair u) := by
  refine Relay.Keeps.queue u _ _ (fun x hx => Or.inl ?_) (fun n ⟨x, hx, hn⟩ => ?_) (queueGood_dropEntry e.pair)
  · exact (mem_entries_dropEntry.mp hx).1
  · by_cases h : n = e.pair
    · exact Or.inr ⟨e, he, h.symm, h ▸ ht⟩
    · exact Or.inl ⟨x, mem_entries_dropEntry.mpr ⟨hx, fun c => h (hn.symm.trans c)⟩, hn⟩

/-- An entry that is startable leaves the queue, and its move starts in a free slot (R86, R89). -/
theorem keeps_start (i : SlotIx) (e : Entry) (hi : r.relay.slots[i] = none) (he : e ∈ r.relay.entries)
    (hs : startable r.relay e = true) : Keeps r ((r.modify (dropEntry e.pair)).startMove i e) := by
  obtain ⟨p_self, p_other, s_self, s_other⟩ := startMove_spec (r.modify (dropEntry e.pair)) i e
  have drop : ((r.modify (dropEntry e.pair)).startMove i e).relay.entries = (dropEntry e.pair r.relay).entries := rfl
  refine ⟨⟨rfl, rfl, rfl, rfl⟩, {
    stands := fun n => ?_
    moves := fun n h => ?_
    slots := fun j m h => ?_
    entries := fun x hx => Or.inl (mem_entries_dropEntry.mp (drop ▸ hx)).1
    bound := fun n k hb => ?_
    waits := fun n ⟨x, hx, hn⟩ _ _ _ => ?_
    queue := fun h => queueGood_dropEntry e.pair h
    sound := fun h => sound_startMove _ i e hi hs h }⟩
  · by_cases hn : n = e.pair
    · subst hn; rw [p_self]; exact ⟨rfl, rfl⟩
    · rw [p_other n hn]; exact ⟨rfl, rfl⟩
  · have hn : n ≠ e.pair := fun c => by
      subst c
      exact Bool.false_ne_true ((startable_spec hs).1.symm.trans h)
    rw [p_other n hn]
    exact ⟨h, rfl⟩
  · have hj : j ≠ i := fun c => by rw [c, hi] at h; cases h
    rw [s_other j hj]
    exact h
  · rcases hb with hb | ⟨x, hx, h2, h3⟩
    · by_cases hn : n = e.pair
      · subst hn
        rw [RelayPair.near, p_self] at hb
        rcases hb with hb | hb
        · exact Or.inl (Or.inl hb)
        · exact Or.inr ⟨e, he, rfl, hb⟩
      · rw [p_other n hn] at hb
        exact Or.inl hb
    · exact Or.inr ⟨x, (mem_entries_dropEntry.mp (drop ▸ hx)).1, h2, h3⟩
  · by_cases h : n = e.pair
    · subst h
      exact Or.inr (by rw [p_self])
    · exact Or.inl ⟨x, drop ▸ mem_entries_dropEntry.mpr ⟨hx, fun c => h (hn.symm.trans c)⟩, hn⟩

theorem keeps_startEntries (fuel : Nat) : Keeps r (startEntries fuel r) := by
  induction fuel generalizing r with
  | zero => exact Relay.Keeps.refl _
  | succ fuel ih =>
    unfold startEntries
    split
    · next i e hf hs =>
      have he : e ∈ r.relay.entries := List.mem_of_find?_eq_some hs
      dsimp only
      split
      · next ht => exact ((keeps_done he ht).trans (keeps_reportDone (r.modify (dropEntry e.pair)) _ _ _)).trans (ih _)
      · refine (keeps_start r i e ?_ he (List.find?_some hs)).trans (ih _)
        have := List.find?_some hf
        rwa [Option.isNone_iff_eq_none] at this
    · exact Relay.Keeps.refl _

theorem mem_entries_joinQueue {u : Relay} {e x : Entry} : x ∈ (joinQueue e u).entries ↔ x ∈ u.entries ∨ x = e := by
  unfold joinQueue
  split <;> simp only [Relay.entries, List.mem_append, List.mem_singleton]
  · constructor
    · rintro ((h | h) | h)
      exacts [.inl (.inl h), .inr h, .inl (.inr h)]
    · rintro ((h | h) | h)
      exacts [.inl (.inl h), .inr h, .inl (.inr h)]
  · exact or_assoc.symm

theorem queueGood_joinQueue {u : Relay} (e : Entry) (hn : ∀ x ∈ u.entries, x.pair ≠ e.pair) (h : u.queueGood) :
    (joinQueue e u).queueGood := by
  obtain ⟨h1, h2, h3⟩ := h
  have hn' : (e.pair :: u.entries.map Entry.pair).Nodup :=
    List.nodup_cons.mpr ⟨fun c => (by obtain ⟨x, hx, hp⟩ := List.mem_map.mp c; exact hn x hx hp), h1⟩
  unfold joinQueue
  split
  · next ht =>
    refine ⟨List.Perm.nodup (List.Perm.map Entry.pair (l₁ := e :: u.entries) ?_) hn', fun x hx => ?_, h3⟩
    · simp only [Relay.entries, List.append_assoc, List.singleton_append]
      exact List.perm_middle.symm
    · rcases List.mem_append.mp hx with hx | hx
      · exact h2 x hx
      · rw [List.mem_singleton.mp hx]; exact ht
  · next ht =>
    refine ⟨List.Perm.nodup (List.Perm.map Entry.pair (l₁ := e :: u.entries) ?_) hn', h2, fun x hx => ?_⟩
    · simp only [Relay.entries, ← List.append_assoc]
      exact (List.perm_append_singleton e _).symm
    · rcases List.mem_append.mp hx with hx | hx
      · exact h3 x hx
      · rw [List.mem_singleton.mp hx]; exact ht

/-- A return or guard request joins the queue, in the place of the pair's entries if it had any. -/
theorem keeps_joinQueue (u : Relay) (e : Entry) (ht : e.target = .through ∨ e.target = .isolated) :
    u.Keeps (joinQueue e (dropEntry e.pair u)) := by
  have key := Relay.Keeps.queue u (joinQueue e (dropEntry e.pair u)).guardSection
    (joinQueue e (dropEntry e.pair u)).normalSection (fun x hx => ?_) (fun n ⟨x, hx, hn⟩ => Or.inl ?_)
    (fun h => ?_)
  · have : ({ u with
        guardSection := (joinQueue e (dropEntry e.pair u)).guardSection
        normalSection := (joinQueue e (dropEntry e.pair u)).normalSection } : Relay) = joinQueue e (dropEntry e.pair u) := by
      unfold joinQueue; split <;> rfl
    rw [← this]
    exact key
  · rcases mem_entries_joinQueue.mp hx with hx | rfl
    · exact Or.inl (mem_entries_dropEntry.mp hx).1
    · exact Or.inr ht
  · by_cases h : n = e.pair
    · exact ⟨e, mem_entries_joinQueue.mpr (Or.inr rfl), h.symm⟩
    · exact ⟨x, mem_entries_joinQueue.mpr (Or.inl (mem_entries_dropEntry.mpr ⟨hx, fun c => h (hn.symm.trans c)⟩)), hn⟩
  · exact queueGood_joinQueue e (fun x hx => (mem_entries_dropEntry.mp hx).2) (queueGood_dropEntry e.pair h)

/-- A pair with no entry has none to drop. -/
theorem dropEntry_none {u : Relay} {n : PairIx} (h : ∀ x ∈ u.entries, x.pair ≠ n) : dropEntry n u = u := by
  have hg : ∀ x ∈ u.guardSection, x.pair ≠ n := fun x hx => h x (List.mem_append_left _ hx)
  have hl : ∀ x ∈ u.normalSection, x.pair ≠ n := fun x hx => h x (List.mem_append_right _ hx)
  unfold dropEntry
  rw [List.filter_eq_self.mpr (by simpa using hg), List.filter_eq_self.mpr (by simpa using hl)]

theorem mem_replaceEntry {l : List Entry} {e x : Entry} (h : x ∈ replaceEntry e l) : x = e ∨ x ∈ l := by
  obtain ⟨y, hy, rfl⟩ := List.mem_map.mp h
  split
  · exact Or.inl rfl
  · exact Or.inr hy

theorem map_pair_replaceEntry (e : Entry) (l : List Entry) : (replaceEntry e l).map Entry.pair = l.map Entry.pair := by
  unfold replaceEntry
  rw [List.map_map]
  refine List.map_congr_left fun x _ => ?_
  simp only [Function.comp]
  split
  · exact Eq.symm (by assumption)
  · rfl

theorem waits_iff {u : Relay} {n : PairIx} : u.waits n ↔ n ∈ u.entries.map Entry.pair := by
  simp [Relay.waits]

/-- A return or guard request of one class replaces the pair's entries in their place. -/
theorem keeps_replace (u : Relay) (e : Entry) (g l : List Entry) (ht : e.target = .through ∨ e.target = .isolated)
    (hg : g.map Entry.pair = u.guardSection.map Entry.pair) (hl : l.map Entry.pair = u.normalSection.map Entry.pair)
    (hm : ∀ x ∈ g ++ l, x = e ∨ x ∈ u.entries)
    (hs : (∀ x ∈ u.guardSection, x.target = .isolated) → (∀ x ∈ u.normalSection, x.target ≠ .isolated) →
      (∀ x ∈ g, x.target = .isolated) ∧ ∀ x ∈ l, x.target ≠ .isolated) :
    u.Keeps { u with guardSection := g, normalSection := l } := by
  have hmap : (g ++ l).map Entry.pair = u.entries.map Entry.pair := by
    rw [List.map_append, hg, hl, Relay.entries, List.map_append]
  refine Relay.Keeps.queue u g l (fun x hx => ?_) (fun n hn => Or.inl ?_) (fun h => ?_)
  · rcases hm x hx with rfl | h
    · exact Or.inr ht
    · exact Or.inl h
  · rw [waits_iff, ← hmap] at hn
    exact List.mem_map.mp hn
  · exact ⟨by rw [Relay.entries, hmap]; exact h.1, hs h.2.1 h.2.2⟩

/-- The taking of a return or guard request (R88). -/
theorem keeps_take (n : PairIx) (t : RelayPos) (q : Requester) (ht : t = .through ∨ t = .isolated) :
    Keeps r (r.take n t q) := by
  have join : r.relay.Keeps (joinQueue ⟨n, t, q⟩ (dropEntry n r.relay)) := keeps_joinQueue r.relay ⟨n, t, q⟩ ht
  unfold take
  dsimp only
  split
  · next hno =>
    split
    · exact keeps_reportDone _ _ _ _
    · have : ∀ x ∈ r.relay.entries, x.pair ≠ n := by
        simp only [Bool.and_eq_true, Bool.not_eq_true', List.any_eq_false, beq_iff_eq] at hno
        intro x hx
        rcases List.mem_append.mp hx with hx | hx
        · exact hno.1 x hx
        · exact hno.2 x hx
      rw [dropEntry_none this] at join
      exact join
  · split
    · next hi =>
      split
      · refine keeps_replace r.relay ⟨n, t, q⟩ _ r.relay.normalSection ht (map_pair_replaceEntry _ _) rfl (fun x hx => ?_)
          (fun h1 h2 => ⟨fun x hx => ?_, h2⟩)
        · rcases List.mem_append.mp hx with hx | hx
          · exact (mem_replaceEntry hx).imp_right (List.mem_append_left _)
          · exact Or.inr (List.mem_append_right _ hx)
        · rcases mem_replaceEntry hx with rfl | hx
          · exact hi
          · exact h1 x hx
      · exact join
    · next hi =>
      split
      · refine keeps_replace r.relay ⟨n, t, q⟩ r.relay.guardSection _ ht rfl (map_pair_replaceEntry _ _) (fun x hx => ?_)
          (fun h1 h2 => ⟨h1, fun x hx => ?_⟩)
        · rcases List.mem_append.mp hx with hx | hx
          · exact Or.inr (List.mem_append_left _ hx)
          · exact (mem_replaceEntry hx).imp_right (List.mem_append_right _)
        · rcases mem_replaceEntry hx with rfl | hx
          · exact hi
          · exact h2 x hx
      · exact join

theorem keeps_request (n : PairIx) (t : RelayPos) (q : Requester) (ht : t = .through ∨ t = .isolated) :
    Keeps r (r.request n t q) :=
  (keeps_take r n t q ht).trans (keeps_startEntries _ _)

/-- The relay unit at the end of the move in a slot, before any report of it and any start (R86). -/
def arrived (u : Relay) (i : SlotIx) (m : Move) : Relay :=
  { u with
    pairs := u.pairs.set m.pair { u.pairs[m.pair] with pos := m.target, moving := false, target := m.target }
    slots := u.slots.set i none }

theorem sound_arrived (i : SlotIx) (m : Move) (hm : r.relay.slots[i] = some m) (h : r.relay.sound) :
    (arrived r.relay i m).sound := by
  unfold arrived
  obtain ⟨h1, h2, h3, h4, h5⟩ := h
  have p_other : ∀ n : PairIx, n ≠ m.pair → (r.relay.pairs.set m.pair
        { r.relay.pairs[m.pair] with pos := m.target, moving := false, target := m.target })[n] = r.relay.pairs[n] := by
    intro n hn
    have : m.pair.val ≠ n.val := fun x => hn (Fin.ext x.symm)
    simp [this]
  have p_self : (r.relay.pairs.set m.pair
        { r.relay.pairs[m.pair] with pos := m.target, moving := false, target := m.target })[m.pair]
      = { r.relay.pairs[m.pair] with pos := m.target, moving := false, target := m.target } := by simp
  have slot : ∀ (j : SlotIx) (o : Move), (r.relay.slots.set i none)[j] = some o →
      r.relay.slots[j] = some o ∧ o.pair ≠ m.pair := by
    intro j o ho
    by_cases hj : i.val = j.val
    · simp [hj] at ho
    · have ho' : r.relay.slots[j] = some o := by simpa [Vector.getElem_set, hj] using ho
      exact ⟨ho', fun c => hj (by rw [h5 i j m o hm ho' c.symm])⟩
  have near : ∀ (k : BusId) (n : PairIx), (r.relay.pairs.set m.pair
        { r.relay.pairs[m.pair] with pos := m.target, moving := false, target := m.target })[n].near (busPos k) →
      r.relay.pairs[n].near (busPos k) := by
    intro k n hn
    by_cases hp : n = m.pair
    · subst hp
      rw [p_self] at hn
      exact Or.inr ((h4 i m hm).2.trans (hn.elim id id))
    · rw [p_other n hp] at hn
      exact hn
  refine ⟨fun k n o hn ho => h1 k n o (near k n hn) (near k o ho), fun n hn => ?_, fun n hn => ?_, fun j o ho => ?_,
    fun j l o x ho hx hp => h5 j l o x (slot j o ho).1 (slot l x hx).1 hp⟩
  · by_cases hp : n = m.pair
    · subst hp
      dsimp only
      rw [p_self]
    · dsimp only at hn ⊢
      rw [p_other n hp] at hn ⊢
      exact h2 n hn
  · by_cases hp : n = m.pair
    · subst hp
      dsimp only at hn
      rw [p_self] at hn
      cases hn
    · dsimp only at hn
      rw [p_other n hp] at hn
      obtain ⟨j, o, ho, hop⟩ := h3 n hn
      refine ⟨j, o, ?_, hop⟩
      have : i.val ≠ j.val := fun c => by
        have : i = j := Fin.ext c
        subst this
        rw [hm] at ho
        cases ho
        exact hp hop.symm
      simpa [Vector.getElem_set, this] using ho
  · obtain ⟨ho, hp⟩ := slot j o ho
    dsimp only
    rw [p_other _ hp]
    exact h4 j o ho

/-- What the end of a move does after the arrival of its pair. -/
theorem keeps_settle (i : SlotIx) (m : Move) (hm : r.relay.slots[i] = some m) :
    (arrived r.relay i m).Keeps (r.settle i).relay := by
  unfold settle
  rw [hm]
  dsimp only
  refine Relay.Keeps.trans ?_ (keeps_startEntries _ _)
  split
  · exact keeps_reportDone ⟨arrived r.relay i m, _⟩ _ _ _
  · exact keeps_reportDone ⟨arrived r.relay i m, _⟩ _ _ _

theorem sound_settle (i : SlotIx) (h : r.relay.sound) : (r.settle i).relay.sound := by
  cases hm : r.relay.slots[i] with
  | none => unfold settle; rw [hm]; exact h
  | some m => exact (keeps_settle r i m hm).2.sound (sound_arrived r i m hm h)

theorem sound_setGuard (n : PairIx) (g : Guard) (h : r.relay.sound) : (r.setGuard n g).relay.sound :=
  Relay.sound_setPair _ n _ rfl rfl rfl h

end RelayRun

theorem Follows.applyRelayEffect {a b : Hw} (e : RelayEffect) (h : Follows a b) : Follows a (applyRelayEffect b e) := by
  cases e with
  | changed n => exact h.recordChanged n
  | report r => exact h.send r

theorem Follows.runRelay {a b : Hw} (r : RelayRun) (h : Follows a b) (k : b.relay.Keeps r.relay) :
    Follows a (runRelay r b) := by
  refine Follows.foldl (fun _ e h => h.applyRelayEffect e) r.out ?_
  refine h.of_eq ⟨rfl, rfl, rfl, ?_, rfl, rfl, rfl, rfl, rfl, rfl, rfl, rfl, rfl, rfl, id, k.2⟩
  obtain ⟨⟨k1, k2, k3, k4⟩, _⟩ := k
  simp only [Hw.settings, k1, k2, k3, k4]

theorem Follows.requestMove {a b : Hw} (n : PairIx) (t : RelayPos) (q : Requester)
    (ht : t = .through ∨ t = .isolated) (h : Follows a b) : Follows a (requestMove n t q b) :=
  h.runRelay _ (RelayRun.keeps_request (relayRun b) n t q ht)

theorem returnTarget_spec (h : Hw) (n : PairIx) : returnTarget h n = .through ∨ returnTarget h n = .isolated := by
  unfold returnTarget
  split
  · exact Or.inl rfl
  · exact Or.inr rfl

/-- A work that has been made on the relay unit, with its effects elsewhere, follows from the state in which it stands made. -/
theorem Follows.runRelay_from {a b : Hw} (r : RelayRun) (u : Relay) (h : Follows a { b with relay := u })
    (k : u.Keeps r.relay) : Follows a (Sys2Proof.Machine.runRelay r b) :=
  Follows.runRelay (b := { b with relay := u }) r h k

/-- A move request of any target follows from the state in which it has been taken (R88). -/
theorem Follows.requestMove_from {a b : Hw} (n : PairIx) (t : RelayPos) (q : Requester)
    (h : Follows a { b with relay := ((relayRun b).take n t q).relay }) :
    Follows a (Sys2Proof.Machine.requestMove n t q b) :=
  Follows.runRelay_from ((relayRun b).request n t q) _ h (RelayRun.keeps_startEntries _ _)

/-- A change of guard follows from the state in which it has been made (R8). -/
theorem Follows.setGuard_from {a b : Hw} (n : PairIx) (g : Guard)
    (h : Follows a { b with relay := ((relayRun b).setGuard n g).relay }) :
    Follows a (Sys2Proof.Machine.setGuard n g b) :=
  Follows.runRelay_from ((relayRun b).setGuard n g) _ h (.refl _)

/-- The end of a move follows from the state in which its pair has arrived (R86). -/
theorem Follows.settle_from {a b : Hw} (i : SlotIx) (m : Move) (hm : b.relay.slots[i] = some m)
    (h : Follows a { b with relay := RelayRun.arrived b.relay i m }) :
    Follows a (Sys2Proof.Machine.runRelay ((relayRun b).settle i) b) :=
  Follows.runRelay_from ((relayRun b).settle i) _ h (RelayRun.keeps_settle (relayRun b) i m hm)

theorem Follows.requestAll {a b : Hw} (ns : List PairIx) (t : RelayPos) (ht : t = .through ∨ t = .isolated)
    (h : Follows a b) : Follows a (requestAll ns t b) :=
  Follows.foldl (fun _ n h => h.requestMove n t .relayUnit ht) ns h

/-! ### The test bus unit and the measurement unit -/

theorem busRecord_setBus_same (k : BusId) (x : BusRecord) (h : Hw) : busRecord (setBus k x h) k = x := by
  cases k <;> rfl

theorem busRecord_setBus_other {k j : BusId} (x : BusRecord) (h : Hw) (hj : j ≠ k) :
    busRecord (setBus k x h) j = busRecord h j := by
  cases k <;> cases j <;> first | rfl | exact absurd rfl hj

/-- A change of a bus record that keeps its wait list orderly and lets no port and no pair in. -/
theorem Follows.setBus {a b : Hw} (k : BusId) (x : BusRecord) (h : Follows a b)
    (hx : (busRecord b k).orderly → x.orderly) (hc : x.Within (busRecord b k)) :
    Follows a (setBus k x b) := by
  refine h.trans { Follows.refl b with buses := fun j => ?_, orderly := fun w j => ?_ }
  · by_cases hj : j = k
    · subst hj
      rw [busRecord_setBus_same]
      exact hc
    · rw [busRecord_setBus_other x b hj]
      exact .refl _
  · by_cases hj : j = k
    · subst hj
      rw [busRecord_setBus_same]
      exact hx (w j)
    · rw [busRecord_setBus_other x b hj]
      exact w j

theorem Follows.enterReady {a b : Hw} (k : BusId) (h : Follows a b) : Follows a (enterReady k b) := h.setBus k _ id (.refl _)
theorem Follows.enterHeld {a b : Hw} (k : BusId) (h : Follows a b) : Follows a (enterHeld k b) := h.setBus k _ id (.refl _)
theorem Follows.enterUntimed {a b : Hw} (k : BusId) (st : BusState) (h : Follows a b) :
    Follows a (enterUntimed k st b) := h.setBus k _ id (.refl _)

theorem Follows.enterIdle {a b : Hw} (k : BusId) (h : Follows a b) : Follows a (enterIdle k b) := by
  unfold Sys2Proof.Machine.enterIdle
  split
  · exact h.enterHeld k
  · exact h.enterUntimed k _

theorem Follows.touchBus {a b : Hw} (p : Port) (k : BusId) (h : Follows a b) : Follows a (touchBus p k b) := by
  unfold Sys2Proof.Machine.touchBus
  split
  · dsimp only
    split
    · exact h.setBus k _ id (.refl _)
    · exact h.setBus k _ id (.refl _)
    all_goals exact h
  · exact h

theorem Follows.setBusPair {a b : Hw} (k : BusId) (n : PairIx) (h : Follows a b) :
    Follows a (setBusPair k n false b) :=
  Follows.recordChanged n (h.setBus k _ id ⟨fun _ h => h, fun _ h => nomatch h⟩)

theorem Follows.setResult {a b : Hw} (k : BusId) (x : ResultRecord) (h : Follows a b) : Follows a (setResult k x b) := { h with }
theorem Follows.closeResult {a b : Hw} (k : BusId) (st : ResultStatus) (e : Option ErrorKind) (v : Verdict)
    (h : Follows a b) : Follows a (closeResult k st e v b) := { h with }
theorem Follows.openResult {a b : Hw} (k : BusId) (c : TestCmd) (n : Option PairIx) (s : MeasSet)
    (p : Option (Fin 16 × ProfileSource)) (h : Follows a b) : Follows a (openResult k c n s p b) := { h with }
theorem Follows.startStage {a b : Hw} (k : BusId) (st : Stage) (h : Follows a b) : Follows a (startStage k st b) := { h with }
theorem Follows.dropRequest {a b : Hw} (k : BusId) (h : Follows a b) : Follows a (dropRequest k b) := { h with }
theorem Follows.setTone {a b : Hw} (k : BusId) (t : Timer) (h : Follows a b) : Follows a (setTone k t b) := { h with }
theorem Follows.idleSetup {a b : Hw} (h : Follows a b) : Follows a (idleSetup b) := { h with }

theorem Follows.summaryOf {a b : Hw} (k : BusId) (v : Verdict) (h : Follows a b) : Follows a (summaryOf k v b) := by
  unfold Sys2Proof.Machine.summaryOf
  dsimp only
  split
  · split
    · exact h.writeSummary _ _ _
    · exact h
  · exact h

theorem Follows.startFront {a b : Hw} (h : Follows a b) : Follows a (startFront b) := by
  unfold Sys2Proof.Machine.startFront
  split <;> exact { h with }

theorem Follows.joinFifo {a b : Hw} (r : TestRequest) (h : Follows a b) : Follows a (joinFifo r b) := by
  unfold Sys2Proof.Machine.joinFifo
  dsimp only
  split
  · exact Follows.startFront { h with }
  · exact { h with }

theorem Follows.ended {a b : Hw} (front : Bool) (h : Follows a b) :
    Follows a (if front then Sys2Proof.Machine.startFront b else b) := by
  split
  · exact h.startFront
  · exact h

theorem Follows.endCommand {a b : Hw} (k : BusId) (st : ResultStatus) (e : Option ErrorKind) (v : Verdict)
    (h : Follows a b) : Follows a (endCommand k st e v b) := by
  have h1 : Follows a (Sys2Proof.Machine.summaryOf k v (Sys2Proof.Machine.closeResult k st e v b)) :=
    Follows.summaryOf k v (h.closeResult k st e v)
  unfold Sys2Proof.Machine.endCommand
  dsimp only
  refine Follows.ended _ ?_
  refine Follows.setTone k none (Follows.dropRequest k (Follows.enterReady k ?_))
  split
  · exact h1.post _
  · exact h1.post _

theorem Follows.abortCommand {a b : Hw} (k : BusId) (e : ErrorKind) (toReady : Bool) (h : Follows a b) :
    Follows a (abortCommand k e toReady b) := by
  unfold Sys2Proof.Machine.abortCommand
  split
  · exact h
  · dsimp only
    refine Follows.ended _ ?_
    have h1 : Follows a (if isFront b k = true then
        Sys2Proof.Machine.idleSetup (Sys2Proof.Machine.setTone k none (Sys2Proof.Machine.dropRequest k b))
        else Sys2Proof.Machine.setTone k none (Sys2Proof.Machine.dropRequest k b)) := by
      split <;> exact { h with }
    generalize (if isFront b k = true then
        Sys2Proof.Machine.idleSetup (Sys2Proof.Machine.setTone k none (Sys2Proof.Machine.dropRequest k b))
        else Sys2Proof.Machine.setTone k none (Sys2Proof.Machine.dropRequest k b)) = c at h1 ⊢
    have h2 : Follows a (Sys2Proof.Machine.summaryOf k (abortedVerdict (resultOf b k).command)
        (Sys2Proof.Machine.closeResult k .aborted (some e) (abortedVerdict (resultOf b k).command) c)) :=
      Follows.summaryOf k _ (h1.closeResult k _ _ _)
    have h3 : ∀ d, Follows a d → Follows a (if toReady = true then Sys2Proof.Machine.enterReady k d else d) := by
      intro d hd
      split
      · exact hd.enterReady k
      · exact hd
    apply h3
    split
    · exact h2
    · exact h2.post _

theorem Follows.continueRequest {a b : Hw} (r : TestRequest) (st : Stage) (h : Follows a b) :
    Follows a (continueRequest r st b) := by
  unfold Sys2Proof.Machine.continueRequest
  split
  · exact { h with }
  · exact h.endCommand _ _ _ _

theorem Follows.startTone {a b : Hw} (k : BusId) (s : Nat) (h : Follows a b) : Follows a (startTone k s b) :=
  Follows.startFront (Follows.setTone k _ (h.dropRequest k))

theorem Follows.stageEnd {a b : Hw} (r : TestRequest) (st : Stage) (v : Readings) (h : Follows a b) :
    Follows a (stageEnd r st v b) := by
  have h1 : Follows a (Sys2Proof.Machine.setResult r.bus (recordStage st r.job v (resultOf b r.bus)) b) := { h with }
  unfold Sys2Proof.Machine.stageEnd
  dsimp only
  split
  · split
    · exact h1.endCommand _ _ _ _
    · split
      · exact h1.startTone _ _
      · exact h1.continueRequest _ _
      · exact h1.continueRequest _ _
  · exact h1.continueRequest _ _
  · exact h1.continueRequest _ _
  · split
    · exact h1.endCommand _ _ _ _
    · exact h1.continueRequest _ _

/-- A write of an overlay channel that leaves what the OVERLAY commands set. -/
theorem Follows.setChannel {a b : Hw} (c : Fin 4) (x : Channel) (h : Follows a b)
    (hx : x.contents = (channelOf b c).contents) (hp : (channelOf b c).poisoned = true → x.poisoned = true) :
    Follows a (setChannel c x b) := by
  refine h.trans { Follows.refl b with channels := fun d => ?_ }
  by_cases hn : c = d
  · subst hn
    simp [channelOf, Sys2Proof.Machine.setChannel] at hx hp ⊢
    exact ⟨hx, hp⟩
  · have : c.val ≠ d.val := fun e => hn (Fin.ext e)
    simp [channelOf, Sys2Proof.Machine.setChannel, this]

theorem Channel.correct_contents (x : Channel) (w : Fin 3) : (x.correct w).contents = x.contents := by
  match w with
  | 0 => simp [Channel.contents, Channel.correct, Protected.afterRead_val]
  | 1 => simp [Channel.contents, Channel.correct, Protected.afterRead_val]
  | 2 => simp [Channel.contents, Channel.correct, Protected.afterRead_val]

theorem Channel.correct_poisoned (x : Channel) (w : Fin 3) : (x.correct w).poisoned = x.poisoned := by
  match w with
  | 0 => rfl
  | 1 => rfl
  | 2 => rfl

theorem Follows.checkChannelWord {a b : Hw} (c : Fin 4) (w : Fin 3) (h : Follows a b) :
    Follows a (checkChannelWord c w b) := by
  unfold Sys2Proof.Machine.checkChannelWord
  split
  · exact h
  · exact Follows.noteCorrected (h.setChannel c _ (Channel.correct_contents _ _) (by rw [Channel.correct_poisoned]; exact id))
  · exact Follows.setChannel c _ (h.recordUncorrectable _) rfl fun _ => rfl

theorem Follows.checkTargets {a b : Hw} (cs : List (Fin 4)) (h : Follows a b) : Follows a (checkTargets cs b) :=
  Follows.foldl (fun _ c h => h.checkChannelWord c 0) cs h

theorem Follows.lookup {a b : Hw} (p : Fin 16) (h : Follows a b) : Follows a (lookup p b).2 := by
  unfold Sys2Proof.Machine.lookup
  dsimp only
  have h1 := h.checkTargets ((List.finRange 4).filter fun c => (channelOf b c).inEffect && !(channelOf b c).poisoned)
  split
  · split
    · exact (h1.checkChannelWord _ 1).checkChannelWord _ 2
    · exact (h1.checkChannelWord _ 1).checkChannelWord _ 2
  · split <;> exact h1

theorem Follows.takePairOff {a b : Hw} (k : BusId) (n : PairIx) (h : Follows a b) : Follows a (takePairOff k n b) :=
  Follows.requestMove n _ .testBus (returnTarget_spec _ n) (h.setBusPair k n)

theorem Follows.beginDeselect {a b : Hw} (k : BusId) (h : Follows a b) : Follows a (beginDeselect k b).2 := by
  unfold Sys2Proof.Machine.beginDeselect
  split
  · exact h
  · dsimp only
    split
    · exact (h.takePairOff k _).setBus k _ id (.refl _)
    · exact h.takePairOff k _

theorem Follows.deselectPair {a b : Hw} (k : BusId) (h : Follows a b) : Follows a (deselectPair k b) := by
  unfold Sys2Proof.Machine.deselectPair
  dsimp only
  split
  · exact (h.beginDeselect k).enterUntimed k _
  · exact (h.beginDeselect k).enterIdle k

theorem Follows.handOver {a b : Hw} (k : BusId) (h : Follows a b) : Follows a (handOver k b) := by
  unfold Sys2Proof.Machine.handOver
  dsimp only
  split
  · next p rest hw =>
    refine Follows.post _ (h.setBus k _ (fun o => ?_) ⟨fun q hq => ?_, fun _ h => h⟩)
    rotate_left
    · right
      rw [hw]
      rcases hq with hq | hq
      · cases hq; exact List.mem_cons_self
      · exact List.mem_cons_of_mem _ hq
    obtain ⟨o1, o2⟩ := o
    rw [hw] at o1
    have n := List.nodup_cons.mp o1
    exact ⟨n.2, fun q hq e => n.1 (by cases e; exact hq), fun e => nomatch e⟩
  · next hw =>
    refine h.setBus k _ (fun _ => ?_) ⟨fun q hq => ?_, fun _ h => h⟩
    rotate_left
    · rcases hq with hq | hq
      · cases hq
      · exact Or.inr hq
    refine ⟨?_, fun q hq => ?_, fun _ => hw⟩
    · dsimp only; rw [hw]; exact List.nodup_nil
    · dsimp only at hq; rw [hw] at hq; cases hq

theorem Follows.endWork {a b : Hw} (k : BusId) (c : ReleaseCause) (h : Follows a b) : Follows a (endWork k c b) := by
  unfold Sys2Proof.Machine.endWork
  split
  · exact h.abortCommand _ _ _
  · exact { h with }
  all_goals exact h

theorem Follows.releaseBusOf {a b : Hw} (k : BusId) (c : ReleaseCause) (h : Follows a b) :
    Follows a (releaseBusOf k c b) := by
  unfold Sys2Proof.Machine.releaseBusOf
  dsimp only
  have h1 := ((h.endWork k c).beginDeselect k).handOver k
  split
  · exact h1.enterUntimed k _
  · exact h1.enterIdle k

theorem Follows.abortSelection {a b : Hw} (k : BusId) (e : ErrorKind) (h : Follows a b) :
    Follows a (abortSelection k e b) := Follows.post _ (h.closeResult k _ _ _)

theorem Follows.abortWork {a b : Hw} (k : BusId) (e : ErrorKind) (h : Follows a b) : Follows a (abortWork k e b) := by
  unfold Sys2Proof.Machine.abortWork
  split
  · exact h.abortCommand _ _ _
  · exact h.abortSelection k e
  all_goals exact h

theorem Follows.abortToHeld {a b : Hw} (k : BusId) (e : ErrorKind) (h : Follows a b) : Follows a (abortToHeld k e b) := by
  unfold Sys2Proof.Machine.abortToHeld
  dsimp only
  split
  · exact ((h.abortWork k e).takePairOff k _).enterHeld k
  · exact (h.abortWork k e).enterHeld k

theorem Follows.surgeAbort {a b : Hw} (n : PairIx) (h : Follows a b) : Follows a (surgeAbort n b) := by
  refine Follows.foldl (fun b k h => ?_) allBuses h
  split
  · exact h.abortToHeld k _
  · exact h

theorem Follows.poisonAbort {a b : Hw} (n : PairIx) (h : Follows a b) : Follows a (poisonAbort n b) := by
  refine Follows.foldl (fun b k h => ?_) allBuses h
  split
  · exact h.abortCommand k _ _
  · exact h

theorem Follows.powerAbort {a b : Hw} (h : Follows a b) : Follows a (powerAbort b) := by
  refine Follows.foldl (fun b k h => ?_) allBuses h
  split <;> first | exact h.abortToHeld k _ | exact h

theorem Follows.faultAbortBus {a b : Hw} (k : BusId) (h : Follows a b) : Follows a (faultAbortBus k b) := by
  unfold Sys2Proof.Machine.faultAbortBus
  dsimp only
  refine Follows.setBus k _ ?_ (fun _ => ⟨List.nodup_nil, fun q hq => (by cases hq), fun _ => rfl⟩)
    ⟨fun q hq => (by rcases hq with hq | hq <;> cases hq), fun _ h => nomatch h⟩
  split
  · exact (h.abortWork k _).takePairOff k _
  · exact h.abortWork k _

theorem Follows.faultAbort {a b : Hw} (h : Follows a b) : Follows a (faultAbort b) :=
  Follows.foldl (fun _ k h => h.faultAbortBus k) allBuses h

theorem Follows.selectionDone {a b : Hw} (n : PairIx) (p : RelayPos) (h : Follows a b) :
    Follows a (selectionDone n p b) := by
  refine Follows.foldl (fun b k h => ?_) allBuses h
  dsimp only
  split
  · exact Follows.post _ (Follows.enterReady k (h.closeResult k _ _ _))
  · exact h

theorem Follows.departureReport {a b : Hw} (n : PairIx) (k : BusId) (h : Follows a b) :
    Follows a (departureReport n k b) := by
  unfold Sys2Proof.Machine.departureReport
  dsimp only
  split
  · exact Follows.enterIdle k (h.setBus k _ id (.refl _))
  · exact h

theorem Follows.takeRequest {a b : Hw} (r : Request) (h : Follows a b) : Follows a (takeRequest r b) := by
  cases r with
  | poisonAbort n => exact h.poisonAbort n
  | faultAbort => exact h.faultAbort
  | relayDone n p => exact h.selectionDone n p
  | departure n k => exact h.departureReport n k

theorem Follows.takeRequests {a b : Hw} (fuel : Nat) (h : Follows a b) : Follows a (takeRequests fuel b) := by
  induction fuel generalizing b with
  | zero => exact { h with }
  | succ fuel ih =>
    unfold Sys2Proof.Machine.takeRequests
    split
    · exact h
    · exact ih (Follows.takeRequest _ { h with })

theorem Follows.reportEmptied {a b : Hw} (c : Hw) (h : Follows a b) : Follows a (reportEmptied c b) := by
  unfold Sys2Proof.Machine.reportEmptied
  generalize Vector.ofFn _ = credit
  exact { h with }

/-- An event whose work follows leaves a state that follows. -/
theorem Follows.event {a : Hw} (f : Hw → Hw) {b : Hw} (h : Follows a (f b)) : Follows a (event f b) :=
  (h.takeRequests requestFuel).reportEmptied b

/-! ### The power unit -/

theorem applyEffect_power (h : Hw) (e : StoreEffect) : (applyEffect h e).power = h.power := by
  have hr (i : Nat) (h : Hw) : (recordError i h).power = h.power := by
    unfold recordError
    split
    · rfl
    · split <;> rfl
  have hn (n : PairIx) (p : Port) (h : Hw) : (joinNotice n p h).power = h.power := by
    unfold joinNotice
    split <;> rfl
  cases e with
  | corrected =>
    simp only [applyEffect, noteCorrected]
    split
    · rfl
    · split <;> rfl
  | uncorrectable i =>
    simp only [applyEffect, recordUncorrectable]
    split
    · rfl
    · split
      · rfl
      · exact hr i h
  | brokenRead i => exact hr i h
  | event f => rfl
  | congested q =>
    simp only [applyEffect]
    split
    · unfold stepRecord
      split
      · simp only [postNotice, hn]
      · simp only [postNotice, hn, writeFirst, setStored]
    · rfl

theorem runStore_power (r : StoreRun) (h : Hw) : (runStore r h).power = h.power := by
  have hf (es : List StoreEffect) (g : Hw) : (es.foldl applyEffect g).power = g.power := by
    induction es generalizing g with
    | nil => rfl
    | cons e rest ih => exact (ih _).trans (applyEffect_power g e)
  exact hf r.out _

theorem flushPair_power (n : PairIx) (h : Hw) : (flushPair n h).power = h.power := by
  unfold flushPair flushQueue
  rw [runStore_power, runStore_power]

theorem stepRecord_power (n : PairIx) (h : Hw) : (stepRecord n h).power = h.power := by
  have hn (n : PairIx) (p : Port) (h : Hw) : (joinNotice n p h).power = h.power := by
    unfold joinNotice
    split <;> rfl
  unfold stepRecord
  split
  · simp only [postNotice, hn]
  · simp only [postNotice, hn, writeFirst, setStored]

theorem changing_power (n : PairIx) (f : Hw → Hw) (h : Hw) : (changing n f h).power = (f h).power := by
  unfold changing
  dsimp only
  split
  · exact (flushPair_power n _).trans rfl
  · rfl

/-- What a pair shows of power and line power once the power unit has evaluated it (R161): a frozen pair stands. -/
def PowerPair.evaluated (x : PowerPair) (floor : Nat) : PowerPair :=
  if x.frozen then x
  else { x with
    powered := decide (x.tier.val < floor)
    line := decide (x.tier.val < floor) && x.service != .disabled }

/-- An evaluation of a pair sets its power and line power, and nothing else of the power unit. -/
theorem evaluatePair_power (n : PairIx) (h : Hw) :
    (evaluatePair n h).power
      = { h.power with pairs := h.power.pairs.set n (h.power.pairs[n].evaluated h.power.floor) } := by
  unfold evaluatePair
  dsimp only
  generalize hx : h.power.pairs[n] = x
  split
  · next hc =>
    have he : x.evaluated h.power.floor = x := by
      unfold PowerPair.evaluated
      cases hf : x.frozen
      · simp only [hf, Bool.false_or, Bool.and_eq_true, beq_iff_eq] at hc
        simp only [Bool.false_eq_true, if_false]
        rw [hc.2, hc.1, ← hf]
      · simp
    rw [he, ← hx]
    simp
  · next hc =>
    have he : x.evaluated h.power.floor = { x with
        powered := decide (x.tier.val < h.power.floor)
        line := decide (x.tier.val < h.power.floor) && x.service != .disabled } := by
      unfold PowerPair.evaluated
      cases hf : x.frozen
      · rfl
      · simp [hf] at hc
    rw [changing_power, stepRecord_power, he]
    rfl

theorem applyEffect_poisoned (h : Hw) (e : StoreEffect) : (applyEffect h e).integ.poisoned = h.integ.poisoned := by
  have hr (i : Nat) (h : Hw) : (recordError i h).integ.poisoned = h.integ.poisoned := by
    unfold recordError
    split
    · rfl
    · split <;> rfl
  have hn (n : PairIx) (p : Port) (h : Hw) : (joinNotice n p h).integ.poisoned = h.integ.poisoned := by
    unfold joinNotice
    split <;> rfl
  cases e with
  | corrected =>
    simp only [applyEffect, noteCorrected]
    split
    · rfl
    · split <;> rfl
  | uncorrectable i =>
    simp only [applyEffect, recordUncorrectable]
    split
    · rfl
    · split
      · rfl
      · exact hr i h
  | brokenRead i => exact hr i h
  | event f => rfl
  | congested q =>
    simp only [applyEffect]
    split
    · unfold stepRecord
      split
      · simp only [postNotice, hn]
      · simp only [postNotice, hn, writeFirst, setStored]
    · rfl

theorem runStore_poisoned (r : StoreRun) (h : Hw) : (runStore r h).integ.poisoned = h.integ.poisoned := by
  have hf (es : List StoreEffect) (g : Hw) : (es.foldl applyEffect g).integ.poisoned = g.integ.poisoned := by
    induction es generalizing g with
    | nil => rfl
    | cons e rest ih => exact (ih _).trans (applyEffect_poisoned g e)
  exact hf r.out _

theorem flushPair_poisoned (n : PairIx) (h : Hw) : (flushPair n h).integ.poisoned = h.integ.poisoned := by
  unfold flushPair flushQueue
  rw [runStore_poisoned, runStore_poisoned]

theorem stepRecord_poisoned (n : PairIx) (h : Hw) : (stepRecord n h).integ.poisoned = h.integ.poisoned := by
  have hn (n : PairIx) (p : Port) (h : Hw) : (joinNotice n p h).integ.poisoned = h.integ.poisoned := by
    unfold joinNotice
    split <;> rfl
  unfold stepRecord
  split
  · simp only [postNotice, hn]
  · simp only [postNotice, hn, writeFirst, setStored]

theorem changing_poisoned (n : PairIx) (f : Hw → Hw) (h : Hw) :
    (changing n f h).integ.poisoned = (f h).integ.poisoned := by
  unfold changing
  dsimp only
  split
  · exact (flushPair_poisoned n _).trans rfl
  · rfl

theorem evaluatePair_poisoned (n : PairIx) (h : Hw) : (evaluatePair n h).integ.poisoned = h.integ.poisoned := by
  unfold evaluatePair
  dsimp only
  split
  · rfl
  · rw [changing_poisoned, stepRecord_poisoned]; rfl

/-- What the power unit keeps of a pair stands for the pair table's word: held while poisoned, equal copies otherwise. -/
def Hw.copied (h : Hw) (n : PairIx) : Prop :=
  h.power.pairs[n].frozen = isPoisoned h n
    ∧ (isPoisoned h n = false →
        h.power.pairs[n].tier = (h.provisioned n).tier ∧ h.power.pairs[n].service = (h.provisioned n).service)

/-- Whether the power and line power of a pair that is not held are those of the floor. -/
def Hw.evaluatedAt (h : Hw) (n : PairIx) : Prop :=
  h.power.pairs[n] = h.power.pairs[n].evaluated h.power.floor

theorem Hw.pairPowerSound_iff (h : Hw) (n : PairIx) (hc : h.copied n) : h.pairPowerSound n ↔ h.evaluatedAt n := by
  obtain ⟨hf, hw⟩ := hc
  unfold Hw.pairPowerSound Hw.evaluatedAt PowerPair.evaluated
  dsimp only
  cases hp : isPoisoned h n
  · rw [hp] at hf
    obtain ⟨h1, h2⟩ := hw hp
    simp only [Hw.provisioned] at h1 h2
    simp only [hf, Bool.false_eq_true, if_false, forall_const, true_and, ← h1, ← h2]
    generalize h.power.pairs[n] = x at hf
    cases x
    simp only [PowerPair.mk.injEq, true_and]
    constructor
    · intro e; refine ⟨hf, e.1, ?_⟩; rw [e.2, e.1]
    · intro e; refine ⟨e.2.1, ?_⟩; rw [e.2.2, e.2.1]
  · rw [hp] at hf
    simp only [Fin.getElem_fin] at hf ⊢
    simp [hf]

theorem PowerPair.evaluated_idem (x : PowerPair) (f : Nat) : (x.evaluated f).evaluated f = x.evaluated f := by
  unfold PowerPair.evaluated
  cases h : x.frozen <;> simp [h]

theorem PowerPair.evaluated_fields (x : PowerPair) (f : Nat) :
    (x.evaluated f).frozen = x.frozen ∧ (x.evaluated f).tier = x.tier ∧ (x.evaluated f).service = x.service := by
  unfold PowerPair.evaluated
  split <;> exact ⟨rfl, rfl, rfl⟩

/-- What an evaluation of a pair does beside its power and line power is consequent work. -/
theorem evaluatePair_consequent (n : PairIx) (h : Hw) :
    Follows (setPowerPair n (h.power.pairs[n].evaluated h.power.floor) h) (evaluatePair n h) := by
  unfold evaluatePair
  dsimp only
  generalize hx : h.power.pairs[n] = x
  split
  · next hc =>
    have he : x.evaluated h.power.floor = x := by
      unfold PowerPair.evaluated
      cases hf : x.frozen
      · simp only [hf, Bool.false_or, Bool.and_eq_true, beq_iff_eq] at hc
        simp only [Bool.false_eq_true, if_false]
        rw [hc.2, hc.1, ← hf]
      · simp
    have hs : setPowerPair n x h = h := by
      rw [← hx]
      simp [setPowerPair]
    rw [he, hs]
    exact Follows.refl h
  · next hc =>
    have he : x.evaluated h.power.floor = { x with
        powered := decide (x.tier.val < h.power.floor)
        line := decide (x.tier.val < h.power.floor) && x.service != .disabled } := by
      unfold PowerPair.evaluated
      cases hf : x.frozen
      · rfl
      · simp [hf] at hc
    rw [he]
    exact Follows.changing n _ (Follows.stepRecord n (Follows.refl _))

theorem evaluatePair_provisioned (n m : PairIx) (h : Hw) : (evaluatePair n h).provisioned m = h.provisioned m :=
  (evaluatePair_consequent n h).provisioned m

/-- An evaluation of a pair keeps every copy. -/
theorem evaluatePair_copied (n m : PairIx) (h : Hw) (hc : h.copied m) : (evaluatePair n h).copied m := by
  unfold Hw.copied isPoisoned at *
  rw [evaluatePair_poisoned, evaluatePair_provisioned, evaluatePair_power]
  dsimp only
  by_cases hn : n = m
  · subst hn
    have e := h.power.pairs[n].evaluated_fields h.power.floor
    simp only [Fin.getElem_fin, Vector.getElem_set_self] at *
    rw [e.1, e.2.1, e.2.2]
    exact hc
  · have : n.val ≠ m.val := fun e => hn (Fin.ext e)
    simp only [Fin.getElem_fin, Vector.getElem_set_ne _ _ this] at *
    exact hc

/-- An evaluation of a pair sets the pair right, and leaves every other as it is. -/
theorem evaluatePair_evaluatedAt (n m : PairIx) (h : Hw) (hm : n = m ∨ h.evaluatedAt m) :
    (evaluatePair n h).evaluatedAt m := by
  unfold Hw.evaluatedAt at *
  rw [evaluatePair_power]
  dsimp only
  by_cases hn : n = m
  · subst hn
    simp only [Fin.getElem_fin, Vector.getElem_set_self]
    exact (PowerPair.evaluated_idem _ _).symm
  · have : n.val ≠ m.val := fun e => hn (Fin.ext e)
    simp only [Fin.getElem_fin, Vector.getElem_set_ne _ _ this] at *
    exact hm.resolve_left hn

/-- An evaluation of the one pair that is not right yet makes the power of every pair sound. -/
theorem evaluatePair_sound (n : PairIx) (h : Hw) (hc : ∀ m, h.copied m) (he : ∀ m, n ≠ m → h.evaluatedAt m) :
    (evaluatePair n h).powerSound := fun m =>
  (Hw.pairPowerSound_iff _ m (evaluatePair_copied n m h (hc m))).mpr
    (evaluatePair_evaluatedAt n m h (if hn : n = m then Or.inl hn else Or.inr (he m hn)))

theorem evaluateAll_sound (h : Hw) (hc : ∀ m, h.copied m) : (evaluateAll h).powerSound := by
  have hf (ns : List PairIx) (g : Hw) (hc : ∀ m, g.copied m) (he : ∀ m, m ∉ ns → g.evaluatedAt m) :
      (ns.foldl (fun h n => evaluatePair n h) g).powerSound := by
    induction ns generalizing g with
    | nil => exact fun m => (Hw.pairPowerSound_iff g m (hc m)).mpr (he m (by simp))
    | cons n rest ih =>
      refine ih _ (fun m => evaluatePair_copied n m g (hc m)) fun m hm => evaluatePair_evaluatedAt n m g ?_
      by_cases hn : n = m
      · exact Or.inl hn
      · exact Or.inr (he m (by simp [hm, Ne.symm hn]))
  exact hf _ h hc fun m hm => absurd (List.mem_finRange m) hm

theorem Hw.powerSound.copied {h : Hw} (w : h.powerSound) (n : PairIx) : h.copied n :=
  ⟨(w n).1, fun hp => ⟨((w n).2 hp).1, ((w n).2 hp).2.1⟩⟩

theorem Hw.powerSound.evaluatedAt {h : Hw} (w : h.powerSound) (n : PairIx) : h.evaluatedAt n :=
  (Hw.pairPowerSound_iff h n (w.copied n)).mp (w n)

theorem Follows.evaluatePair {a b : Hw} (n : PairIx) (h : Follows a b) : Follows a (evaluatePair n b) := by
  refine Follows.repower (setPowerPair n (b.power.pairs[n].evaluated b.power.floor) b).power h rfl
    (evaluatePair_consequent n b) fun w => ?_
  have w' := h.power w
  exact evaluatePair_sound n b (fun m => w'.copied m) fun m _ => w'.evaluatedAt m

theorem Follows.evaluateAll {a b : Hw} (h : Follows a b) : Follows a (evaluateAll b) :=
  Follows.foldl (fun _ n h => h.evaluatePair n) (List.finRange 24) h

theorem Follows.setFloor {a b : Hw} (f : Nat) (h : Follows a b) : Follows a (setFloor f b) := by
  unfold Sys2Proof.Machine.setFloor
  split
  · exact h
  · refine Follows.repower { b.power with floor := f } h rfl ((Follows.refl _).post .floor).evaluateAll fun w => ?_
    have w' := h.power w
    exact evaluateAll_sound _ fun m => w'.copied m

theorem Follows.setStepTimer {a b : Hw} (t : Timer) (h : Follows a b) : Follows a (setStepTimer t b) := { h with }

theorem Follows.stepTimerOn {a b : Hw} (h : Follows a b) : Follows a (stepTimerOn b) := by
  unfold Sys2Proof.Machine.stepTimerOn
  split <;> exact { h with }

theorem Follows.fallTo {a b : Hw} (c : Nat) (h : Follows a b) : Follows a (fallTo c b) := by
  unfold Sys2Proof.Machine.fallTo
  split
  · exact Follows.setFloor c (h.setStepTimer none)
  · exact h

theorem Follows.stepStart {a b : Hw} (h : Follows a b) : Follows a (stepStart b) := by
  unfold Sys2Proof.Machine.stepStart
  dsimp only
  split
  · exact Follows.stepTimerOn (Follows.setFloor _ (h.setStepTimer none))
  · exact { h with }

theorem Follows.enterMode {a b : Hw} (m : PowerMode) (h : Follows a b) : Follows a (enterMode m b) := { h with }

theorem Follows.setMode {a b : Hw} (m : PowerMode) (h : Follows a b) : Follows a (setMode m b) := by
  unfold Sys2Proof.Machine.setMode
  split
  · exact h
  · have h1 : Follows a (Sys2Proof.Machine.post .mode (Sys2Proof.Machine.enterMode m b)) := Follows.post _ (h.enterMode m)
    have h2 : Follows a (match cap (Sys2Proof.Machine.post .mode (Sys2Proof.Machine.enterMode m b)) with
        | some c => Sys2Proof.Machine.stepStart
            (Sys2Proof.Machine.fallTo c (Sys2Proof.Machine.post .mode (Sys2Proof.Machine.enterMode m b)))
        | none => Sys2Proof.Machine.post .mode (Sys2Proof.Machine.enterMode m b)) := by
      split
      · exact (h1.fallTo _).stepStart
      · exact h1
    dsimp only [modeAbort]
    split <;> first | exact h2.powerAbort | exact h2

/-! ### The trunk interface and the share scheduler -/

theorem Follows.askQueue {a b : Hw} (n : PairIx) (h : Follows a b) : Follows a (askQueue n b).2 :=
  h.runStore _ (StoreRun.keeps_openQueue (storeRun b) _)

theorem Follows.askTier {a b : Hw} (n : PairIx) (h : Follows a b) : Follows a (askTier n b).2 := h.checkPairWord n 0

theorem Follows.setCredit {a b : Hw} (n : PairIx) (c : Fin 16) (h : Follows a b) : Follows a (setCredit n c b) := { h with }

theorem Follows.findUrgent {a b : Hw} (ns : List PairIx) (h : Follows a b) : Follows a (findUrgent ns b).2 := by
  induction ns generalizing b with
  | nil => exact h
  | cons n rest ih =>
    unfold Sys2Proof.Machine.findUrgent
    split
    · dsimp only
      split
      · exact h.askQueue n
      · exact ih (h.askQueue n)
    · exact ih h

theorem Follows.findLifeline {a b : Hw} (ns : List PairIx) (h : Follows a b) : Follows a (findLifeline ns b).2 := by
  induction ns generalizing b with
  | nil => exact h
  | cons n rest ih =>
    unfold Sys2Proof.Machine.findLifeline
    split
    · dsimp only
      split
      · split
        · exact (h.askTier n).askQueue n
        · exact ih ((h.askTier n).askQueue n)
      · exact ih (h.askTier n)
    · exact ih h

theorem Follows.isCandidate {a b : Hw} (n : PairIx) (h : Follows a b) : Follows a (isCandidate n b).2 := by
  unfold Sys2Proof.Machine.isCandidate
  split
  · dsimp only
    split
    · exact h.askTier n
    · split
      · exact h.askTier n
      · exact (h.askTier n).askQueue n
  · exact h

theorem Follows.findCandidate {a b : Hw} (ns : List PairIx) (h : Follows a b) : Follows a (findCandidate ns b).2 := by
  induction ns generalizing b with
  | nil => exact h
  | cons n rest ih =>
    unfold Sys2Proof.Machine.findCandidate
    dsimp only
    split
    · exact h.isCandidate n
    · exact ih (Follows.setCredit n 0 (h.isCandidate n))

theorem Follows.takeUpstream {a b : Hw} (n : PairIx) (h : Follows a b) : Follows a (takeUpstream n b).2 :=
  h.runStore _ (StoreRun.keeps_take (storeRun b) _ _ _)

theorem Follows.serve {a b : Hw} (n : PairIx) (f : Hw → Hw) (hf : ∀ c, Follows a c → Follows a (f c)) (h : Follows a b) :
    Follows a (serve n f b) := by
  unfold Sys2Proof.Machine.serve
  dsimp only
  split
  · exact hf _ { h.takeUpstream n with }
  · exact h.takeUpstream n

theorem Follows.refill {a b : Hw} (n : PairIx) (h : Follows a b) : Follows a (refill n b) := by
  unfold Sys2Proof.Machine.refill
  split <;> exact { h with }

theorem Follows.charge {a b : Hw} (n : PairIx) (h : Follows a b) : Follows a (charge n b) := by
  unfold Sys2Proof.Machine.charge
  dsimp only
  split <;> exact { h with }

theorem Follows.creditRound {a b : Hw} (h : Follows a b) : Follows a (creditRound b) := by
  unfold Sys2Proof.Machine.creditRound
  dsimp only
  split
  · exact Follows.serve _ _ (fun _ h => h.charge _) (Follows.refill _ { h.findCandidate _ with })
  · exact h.findCandidate _

theorem Follows.lifelineStep {a b : Hw} (h : Follows a b) : Follows a (lifelineStep b) := by
  unfold Sys2Proof.Machine.lifelineStep
  dsimp only
  split
  · exact Follows.serve _ _ (fun _ h => { h with }) (h.findLifeline _)
  · exact (h.findLifeline _).creditRound

theorem Follows.opportunity {a b : Hw} (h : Follows a b) : Follows a (opportunity b) := by
  unfold Sys2Proof.Machine.opportunity
  dsimp only
  split
  · exact Follows.serve _ _ (fun _ h => { h with }) (h.findUrgent _)
  · exact (h.findUrgent _).lifelineStep

theorem Follows.ready {a b : Hw} (h : Follows a b) : Follows a (ready b) := by
  unfold Sys2Proof.Machine.ready
  split
  · exact h.opportunity
  · exact h

theorem Follows.evalPermission {a b : Hw} (t : Bool) (h : Follows a b) : Follows a (evalPermission t b) := by
  unfold Sys2Proof.Machine.evalPermission
  dsimp only
  split
  · exact Follows.ready { h with }
  · exact { h with }

/-- A change of the trunk interface that leaves transmit enable. -/
theorem Follows.setTrunk {a b : Hw} (t : Trunk) (h : Follows a b) (ht : t.transmitEnable = b.trunk.transmitEnable) :
    Follows a (setTrunk t b) := by
  refine h.of_eq ⟨rfl, rfl, rfl, ?_, rfl, rfl, rfl, rfl, rfl, rfl, rfl, rfl, rfl, rfl, id, .refl _⟩
  simp [Hw.settings, Sys2Proof.Machine.setTrunk, ht]

theorem Follows.lockLost {a b : Hw} (h : Follows a b) : Follows a (lockLost b) := Follows.post _ (h.setTrunk _ rfl)

theorem Follows.toSearch {a b : Hw} (w : List Byte) (h : Follows a b) : Follows a (toSearch w b) := by
  unfold Sys2Proof.Machine.toSearch
  dsimp only
  refine Follows.evalPermission _ ?_
  split
  · exact Follows.lockLost (h.setTrunk _ rfl)
  · exact h.setTrunk _ rfl

theorem Follows.giveUpAlignment {a b : Hw} (h : Follows a b) : Follows a (giveUpAlignment b) :=
  (h.releaseHold _).toSearch _

theorem Follows.allocateFor {a b : Hw} (u : Bool) (q : QueueIx) (x : HoldName) (len : Nat) (h : Follows a b) :
    Follows a (allocateFor u q x len b).2 := by
  have k := StoreRun.keeps_allocate (storeRun b) u q x b.integ.faultHold
  unfold Sys2Proof.Machine.allocateFor
  dsimp only
  split
  · exact h.runStore _ (k.trans (StoreRun.keeps_recordLength _ _ _))
  · exact h.runStore _ k

theorem Follows.admitFrom {a b : Hw} (q : QueueIx) (u : Bool) (len : Nat) (x : HoldName) (h : Follows a b) :
    Follows a (admitFrom q u len x b) := h.runStore _ (StoreRun.keeps_admit (storeRun b) _ _ _ _ _ _)

theorem Follows.endSending {a b : Hw} (h : Follows a b) : Follows a (endSending b) :=
  Follows.releaseHold _ (h.setTrunk _ rfl)

theorem Follows.takeHeader {a b : Hw} (d : Header) (h : Follows a b) : Follows a (takeHeader d b).2 := by
  unfold Sys2Proof.Machine.takeHeader
  split
  · split
    · exact h
    · exact h.allocateFor _ _ _ _
  · exact h

theorem Follows.setCurrent {a b : Hw} (d : Header) (k : Bool) (h : Follows a b) : Follows a (setCurrent d k b) :=
  h.setTrunk _ rfl

theorem Follows.confirmHeader {a b : Hw} (d : Header) (t : Bool) (h : Follows a b) : Follows a (confirmHeader d t b) := by
  unfold Sys2Proof.Machine.confirmHeader
  dsimp only
  have h1 := Follows.setCurrent d false (h.setTrunk { b.trunk with confirmCount := b.trunk.confirmCount + 1 } rfl)
  split
  · exact h1
  · exact Follows.evalPermission _ (Follows.post _ (h1.setTrunk _ rfl))

theorem Follows.lockedHeader {a b : Hw} (d : Header) (h : Follows a b) : Follows a (lockedHeader d b) := by
  unfold Sys2Proof.Machine.lockedHeader
  dsimp only
  exact Follows.setCurrent _ _ (Follows.takeHeader _ (h.setTrunk _ rfl))

theorem Follows.badHeader {a b : Hw} (bs : List Byte) (h : Follows a b) : Follows a (badHeader bs b) := by
  have h1 : Follows a (Sys2Proof.Machine.setTrunk { b.trunk with
    headerErrors := b.trunk.headerErrors + 1, badRun := b.trunk.badRun + 1, current := none } b) := h.setTrunk _ rfl
  unfold Sys2Proof.Machine.badHeader
  dsimp only
  split
  · exact h1
  · exact h1.toSearch _

theorem Follows.headerByte {a b : Hw} (x : Byte) (t : Bool) (h : Follows a b) : Follows a (headerByte x t b) := by
  unfold Sys2Proof.Machine.headerByte
  dsimp only
  split
  · exact h.setTrunk _ rfl
  · have h1 : Follows a (Sys2Proof.Machine.setTrunk { b.trunk with headerBytes := [], position := 3 } b) := h.setTrunk _ rfl
    unfold Sys2Proof.Machine.headerComplete
    split
    · exact h1.confirmHeader _ _
    · exact h1.toSearch _
    · exact h1.lockedHeader _
    · exact h1.badHeader _
    · exact h1

theorem Follows.searchByte {a b : Hw} (x : Byte) (h : Follows a b) : Follows a (searchByte x b) := by
  unfold Sys2Proof.Machine.searchByte
  dsimp only
  split <;> exact h.setTrunk _ rfl

theorem Follows.cellEnd {a b : Hw} (h : Follows a b) : Follows a (cellEnd b) := by
  have h1 : Follows a (Sys2Proof.Machine.setTrunk
    { b.trunk with position := 0, current := b.trunk.current.map fun c => { c with kept := false } } b) := h.setTrunk _ rfl
  unfold Sys2Proof.Machine.cellEnd
  dsimp only
  split
  · split
    · exact h1.admitFrom _ _ _ _
    · exact h1
  · exact h1

/-! ### Table RAM -/

theorem Follows.readTableWord {a b : Hw} (i : Nat) (r : Bool) (h : Follows a b) : Follows a (readTableWord i r b) := by
  unfold Sys2Proof.Machine.readTableWord
  split
  · exact h.checkPairWord _ _
  · exact h.checkChannelWord _ _
  all_goals exact h.runStore _ (StoreRun.keeps_readWord (storeRun b) _ _)

end Sys2Proof.Machine
end

