-- ==== Sys2Proof/Laws/Commands.lean ====
section
/-! SUPPORT. How a command runs: the requests of an event are all taken, a command that sends none leaves its state to
the answer, and an answer touches its port alone. -/

namespace Sys2Proof.Machine

/-- After an event no request waits. -/
theorem takeRequests_requests (fuel : Nat) (h : Hw) : (takeRequests fuel h).requests = [] := by
  induction fuel generalizing h with
  | zero => rfl
  | succ fuel ih =>
    unfold takeRequests
    split
    · assumption
    · exact ih _

/-- With no request waiting there is nothing to take. -/
theorem takeRequests_quiet (fuel : Nat) (h : Hw) (hq : h.requests = []) : takeRequests fuel h = h := by
  cases fuel with
  | zero => unfold takeRequests; rw [← hq]
  | succ fuel => unfold takeRequests; rw [hq]

theorem event_requests (f : Hw → Hw) (h : Hw) : (event f h).requests = [] := by
  unfold event
  rw [reportEmptied_requests, takeRequests_requests]

/-- An event that sends nothing and leaves the descriptors is what it does. -/
theorem event_quiet (f : Hw → Hw) (h : Hw) (hq : (f h).requests = [])
    (hd : (f h).store.descriptors = h.store.descriptors) : event f h = f h := by
  unfold event
  rw [takeRequests_quiet _ _ hq]
  exact reportEmptied_of_descriptors _ _ hd

/-- A command that its port has passed, whose body sends nothing and leaves the descriptors. -/
theorem takeCommand_quiet (c : Cmd) (p : Port) (args : List Byte) (b : Body) (h : Hw)
    (hp : (portOf h p).passed = some ⟨c, args⟩) (hq : (b h).1.requests = [])
    (hd : (b h).1.store.descriptors = h.store.descriptors) :
    takeCommand c p args b h = deliver p c ((b h).2 (b h).1) (b h).1 := by
  unfold takeCommand
  rw [if_pos hp]
  dsimp only
  rw [takeRequests_quiet _ _ hq, reportEmptied_of_descriptors _ _ hd]

/-- A command that its port has not passed changes nothing (log 1). -/
theorem takeCommand_notPassed (c : Cmd) (p : Port) (args : List Byte) (b : Body) (h : Hw)
    (hp : (portOf h p).passed ≠ some ⟨c, args⟩) : takeCommand c p args b h = h := by
  unfold takeCommand
  rw [if_neg hp]

/-- A command that its port has passed leaves its port with the answer, whatever it does elsewhere. -/
theorem takeCommand_passed (c : Cmd) (p : Port) (args : List Byte) (b : Body) (h : Hw)
    (hp : (portOf h p).passed = some ⟨c, args⟩) :
    takeCommand c p args b h
      = deliver p c ((b h).2 (reportEmptied h (takeRequests requestFuel (b h).1)))
          (reportEmptied h (takeRequests requestFuel (b h).1)) := by
  unfold takeCommand
  rw [if_pos hp]

theorem deliver_port (p : Port) (c : Cmd) (r : Reply) (h : Hw) :
    portOf (deliver p c r h) p
      = if (portOf h p).abortMark then
          { portOf h p with state := .idle, answer := none, abortMark := false, passed := none }
        else (portOf h p).answered (cmdCode c) r := by
  unfold deliver
  simp

theorem deliver_otherPort {p q : Port} (c : Cmd) (r : Reply) (h : Hw) (hq : q ≠ p) :
    portOf (deliver p c r h) q = portOf h q := portOf_setPort_other _ _ hq

/-- The work that follows a command's body leaves what Follows says. -/
theorem Follows.rest {a b : Hw} (c : Hw) (h : Follows a b) :
    Follows a (Sys2Proof.Machine.reportEmptied c (Sys2Proof.Machine.takeRequests requestFuel b)) :=
  (h.takeRequests requestFuel).reportEmptied c

end Sys2Proof.Machine
end

