-- ==== Sys2Proof/Laws/Buses.lean ====
section
/-! SUPPORT. What the pair table, the queue engine and the relay unit leave of the test bus unit and the measurement unit,
and what the shared operations of the buses make of a bus record. -/

namespace Sys2Proof.Machine

variable (h : Hw)

/-- From one state to another the test bus unit and the measurement unit stand. -/
def Hw.TestsStand (a b : Hw) : Prop := b.testBus = a.testBus ∧ b.meas = a.meas

theorem Hw.TestsStand.refl : Hw.TestsStand h h := ⟨rfl, rfl⟩

theorem Hw.TestsStand.trans {a b c : Hw} (x : Hw.TestsStand a b) (y : Hw.TestsStand b c) : Hw.TestsStand a c :=
  ⟨y.1.trans x.1, y.2.trans x.2⟩

/-- A fold keeps what each of its turns keeps. -/
theorem Hw.TestsStand.foldl {α : Type} (f : Hw → α → Hw) (hf : ∀ g x, Hw.TestsStand g (f g x)) (xs : List α) :
    Hw.TestsStand h (xs.foldl f h) := by
  induction xs generalizing h with
  | nil => exact .refl h
  | cons x xs ih => exact (hf h x).trans (ih (f h x))

theorem Hw.TestsStand.busRecord {a b : Hw} (x : Hw.TestsStand a b) (k : BusId) :
    Sys2Proof.Machine.busRecord b k = Sys2Proof.Machine.busRecord a k := by
  unfold Sys2Proof.Machine.busRecord; rw [x.1]

theorem Hw.TestsStand.resultOf {a b : Hw} (x : Hw.TestsStand a b) (k : BusId) :
    Sys2Proof.Machine.resultOf b k = Sys2Proof.Machine.resultOf a k := by
  unfold Sys2Proof.Machine.resultOf; rw [x.2]

theorem Hw.TestsStand.fifoPlace {a b : Hw} (x : Hw.TestsStand a b) (k : BusId) :
    Sys2Proof.Machine.fifoPlace b k = Sys2Proof.Machine.fifoPlace a k := by
  unfold Sys2Proof.Machine.fifoPlace; rw [x.2]

/-! ### Pair table and queue engine -/

theorem joinNotice_tests (n : PairIx) (p : Port) : Hw.TestsStand h (joinNotice n p h) := by
  unfold joinNotice
  split
  · exact .refl h
  · exact ⟨rfl, rfl⟩

theorem postNotice_tests (n : PairIx) : Hw.TestsStand h (postNotice n h) :=
  ((joinNotice_tests h n .sup).trans (joinNotice_tests _ n .trk)).trans (joinNotice_tests _ n .tst)

theorem stepRecord_tests (n : PairIx) : Hw.TestsStand h (stepRecord n h) := by
  unfold stepRecord
  split
  · exact postNotice_tests h n
  · exact Hw.TestsStand.trans ⟨rfl, rfl⟩ (postNotice_tests _ n)

theorem recordChanged_tests (n : PairIx) : Hw.TestsStand h (recordChanged n h) :=
  (stepRecord_tests h n).trans ⟨rfl, rfl⟩

theorem noteCorrected_tests : Hw.TestsStand h (noteCorrected h) := by
  unfold noteCorrected
  split
  · exact .refl h
  · dsimp only
    split <;> exact ⟨rfl, rfl⟩

theorem enterFaultHold_tests (kind : HoldKind) (i : Nat) : Hw.TestsStand h (enterFaultHold kind i h) := ⟨rfl, rfl⟩

theorem recordError_tests (i : Nat) : Hw.TestsStand h (recordError i h) := by
  unfold recordError
  split
  · exact ⟨rfl, rfl⟩
  · split
    · exact .refl h
    · exact enterFaultHold_tests h _ _

theorem recordUncorrectable_tests (i : Nat) : Hw.TestsStand h (recordUncorrectable i h) := by
  unfold recordUncorrectable
  split
  · exact .refl h
  · split
    · exact enterFaultHold_tests h _ _
    · exact recordError_tests h i

theorem applyEffect_tests (e : StoreEffect) : Hw.TestsStand h (applyEffect h e) := by
  cases e with
  | corrected => exact noteCorrected_tests h
  | uncorrectable i => exact recordUncorrectable_tests h i
  | brokenRead i => exact recordError_tests h i
  | event f => exact ⟨rfl, rfl⟩
  | congested q =>
    show Hw.TestsStand h (match upqPair q with | some n => stepRecord n h | none => h)
    split
    · exact stepRecord_tests h _
    · exact .refl h

theorem runStore_tests (r : StoreRun) : Hw.TestsStand h (runStore r h) :=
  Hw.TestsStand.trans ⟨rfl, rfl⟩ (Hw.TestsStand.foldl _ applyEffect applyEffect_tests r.out)

theorem flushPair_tests (n : PairIx) : Hw.TestsStand h (flushPair n h) :=
  (runStore_tests h _).trans (runStore_tests _ _)

theorem sendRefresh_tests (r : Request) (n : PairIx) : Hw.TestsStand h (send r (refresh n h)) := ⟨rfl, rfl⟩

theorem poison_tests (n : PairIx) : Hw.TestsStand h (poison n h) := by
  have key : ∀ g, Hw.TestsStand h g →
      Hw.TestsStand h (postNotice n (send (.poisonAbort n) (refresh n (flushPair n g)))) := fun g hg =>
    ((hg.trans (flushPair_tests g n)).trans (sendRefresh_tests _ _ n)).trans (postNotice_tests _ n)
  unfold poison
  split
  · exact .refl h
  · exact key _ ⟨rfl, rfl⟩

theorem checkPairWord_tests (n : PairIx) (w : Fin 3) : Hw.TestsStand h (checkPairWord n w h) := by
  unfold checkPairWord
  split
  · exact .refl h
  · exact Hw.TestsStand.trans ⟨rfl, rfl⟩ (noteCorrected_tests _)
  · exact (recordUncorrectable_tests h _).trans (poison_tests _ n)

theorem checkPair_tests (n : PairIx) : Hw.TestsStand h (checkPair n h) :=
  ((checkPairWord_tests h n 0).trans (checkPairWord_tests _ n 1)).trans (checkPairWord_tests _ n 2)

theorem writeSummary_tests (n : PairIx) (v : Verdict) (p : Option (Fin 16)) : Hw.TestsStand h (writeSummary n v p h) := by
  unfold writeSummary
  split
  · exact .refl h
  · dsimp only
    split
    · exact checkPair_tests h n
    · split
      · exact checkPair_tests h n
      · have x := checkPair_tests h n
        refine Hw.TestsStand.trans ?_ (stepRecord_tests _ n)
        exact ⟨x.1, x.2⟩

theorem summaryOf_tests (k : BusId) (v : Verdict) : Hw.TestsStand h (summaryOf k v h) := by
  unfold summaryOf
  dsimp only
  split
  · split
    · exact writeSummary_tests h _ _ _
    · exact .refl h
  · exact .refl h

/-! ### Relay unit -/

theorem runRelay_tests (r : RelayRun) : Hw.TestsStand h (runRelay r h) :=
  Hw.TestsStand.trans ⟨rfl, rfl⟩ (Hw.TestsStand.foldl _ applyRelayEffect (fun g e => by
    cases e with
    | changed n => exact recordChanged_tests g n
    | report r => exact ⟨rfl, rfl⟩) r.out)

theorem requestMove_tests (n : PairIx) (t : RelayPos) (q : Requester) : Hw.TestsStand h (requestMove n t q h) :=
  runRelay_tests h _

theorem setGuard_tests (n : PairIx) (g : Guard) : Hw.TestsStand h (setGuard n g h) := runRelay_tests h _

/-! ### Buses -/

theorem busRecord_setBusPair (k : BusId) (n : PairIx) (on : Bool) :
    busRecord (setBusPair k n on h) k = { busRecord h k with pair := if on then some n else none } :=
  ((recordChanged_tests _ n).busRecord k).trans (by simp)

theorem busRecord_setBusPair_other {k j : BusId} (n : PairIx) (on : Bool) (hj : j ≠ k) :
    busRecord (setBusPair k n on h) j = busRecord h j :=
  ((recordChanged_tests _ n).busRecord j).trans (busRecord_setBus_other _ h hj)

theorem setBusPair_meas (k : BusId) (n : PairIx) (on : Bool) : (setBusPair k n on h).meas = h.meas :=
  (recordChanged_tests _ n).2

/-- Taking a pair off its bus empties the pair field, and changes nothing else of either unit (R105). -/
theorem busRecord_takePairOff (k : BusId) (n : PairIx) :
    busRecord (takePairOff k n h) k = { busRecord h k with pair := none } :=
  ((requestMove_tests _ n _ _).busRecord k).trans (busRecord_setBusPair h k n false)

theorem busRecord_takePairOff_other {k j : BusId} (n : PairIx) (hj : j ≠ k) :
    busRecord (takePairOff k n h) j = busRecord h j :=
  ((requestMove_tests _ n _ _).busRecord j).trans (busRecord_setBusPair_other h n false hj)

theorem takePairOff_meas (k : BusId) (n : PairIx) : (takePairOff k n h).meas = h.meas :=
  (requestMove_tests _ n _ _).2.trans (setBusPair_meas h k n false)

/-! ### Reads that find nothing damaged -/

theorem checkPairWord_of_undamaged (n : PairIx) (w : Fin 3) (u : h.undamaged n) : checkPairWord n w h = h := by
  unfold checkPairWord
  rw [u.upset w]
  rfl

theorem checkPair_of_undamaged (n : PairIx) (u : h.undamaged n) : checkPair n h = h := by
  unfold checkPair
  rw [checkPairWord_of_undamaged h n 0 u, checkPairWord_of_undamaged h n 1 u, checkPairWord_of_undamaged h n 2 u]

theorem Follows.readForRebuild {a b : Hw} (n : PairIx) (f : Follows a b) :
    Follows a (Sys2Proof.Machine.readForRebuild n b) := (f.checkPair n).takeRequests requestFuel

theorem readForRebuild_of_undamaged (n : PairIx) (u : h.undamaged n) (hq : h.requests = []) : readForRebuild n h = h := by
  unfold readForRebuild
  rw [checkPair_of_undamaged h n u, takeRequests_quiet _ _ hq]

/-- A credit that is spent is one less, and stays 0 at 0 (R56). -/
@[simp] theorem spend_val (c : Fin 16) : (spend c).val = c.val - 1 := rfl

end Sys2Proof.Machine
end

