-- ==== Sys2Proof/Laws/Records.lean ====
section
/-! SUPPORT. How far the version of each record advances: the changes of the record count, and add up (R14). -/

namespace Sys2Proof.Machine

/-- From one state to another the record of each pair has changed so many times, and no other part of a stored part has
changed; what is poisoned has not changed either (R13, R14). -/
structure Hw.Stepped (a b : Hw) (k : PairIx → Nat) : Prop where
  stored : ∀ n, storedPair b n = a.recordAfter n (k n)
  poisoned : ∀ n, isPoisoned b n = isPoisoned a n

@[simp] theorem recordAfter_zero (h : Hw) (n : PairIx) : h.recordAfter n 0 = storedPair h n := by
  simp [Hw.recordAfter]

theorem recordAfter_add (a b : Hw) (n : PairIx) (i j : Nat) (hs : storedPair b n = a.recordAfter n i)
    (hp : isPoisoned b n = isPoisoned a n) : b.recordAfter n j = a.recordAfter n (i + j) := by
  unfold Hw.recordAfter at hs ⊢
  dsimp only at hs ⊢
  rw [hs, hp]
  by_cases p : isPoisoned a n = true
  · simp [p]
  · by_cases hi : i = 0
    · simp [hi]
    · by_cases hj : j = 0
      · simp [hj, hi, p]
      · simp [hi, hj, p, BitVec.ofNat_add, BitVec.add_assoc]

theorem Hw.Stepped.trans {a b c : Hw} {i j : PairIx → Nat} (x : a.Stepped b i) (y : b.Stepped c j) :
    a.Stepped c fun n => i n + j n :=
  ⟨fun n => (y.stored n).trans (recordAfter_add a b n _ _ (x.stored n) (x.poisoned n)),
    fun n => (y.poisoned n).trans (x.poisoned n)⟩

theorem Hw.Stepped.of_eq {a b : Hw} {k : PairIx → Nat} (hk : ∀ n, k n = 0)
    (hs : b.pairTable.stored = a.pairTable.stored) (hp : b.integ.poisoned = a.integ.poisoned) : a.Stepped b k :=
  ⟨fun n => by rw [hk, recordAfter_zero]; simp only [storedPair, hs], fun n => by simp only [isPoisoned, hp]⟩

theorem Hw.Stepped.congr {a b : Hw} {k l : PairIx → Nat} (x : a.Stepped b k) (hk : ∀ n, k n = l n) : a.Stepped b l :=
  ⟨fun n => by rw [← hk n]; exact x.stored n, x.poisoned⟩

theorem joinNotice_poisoned (n : PairIx) (p : Port) (h : Hw) : (joinNotice n p h).integ = h.integ := by
  unfold joinNotice
  split <;> rfl

theorem postNotice_integ (n : PairIx) (h : Hw) : (postNotice n h).integ = h.integ := by
  unfold postNotice
  rw [joinNotice_poisoned, joinNotice_poisoned, joinNotice_poisoned]

theorem joinNotice_relay (n : PairIx) (p : Port) (h : Hw) : (joinNotice n p h).relay = h.relay := by
  unfold joinNotice
  split <;> rfl

theorem recordChanged_relay (n : PairIx) (h : Hw) : (recordChanged n h).relay = h.relay := by
  have post (g : Hw) : (postNotice n g).relay = g.relay := by
    unfold postNotice
    rw [joinNotice_relay, joinNotice_relay, joinNotice_relay]
  show (stepRecord n h).relay = h.relay
  unfold stepRecord
  split
  · exact post h
  · exact post _

/-- A step of the record changes it once (R14). -/
theorem stepped_stepRecord (n : PairIx) (h : Hw) : h.Stepped (stepRecord n h) fun m => if m = n then 1 else 0 := by
  unfold stepRecord
  split
  · next hp =>
    refine ⟨fun m => ?_, fun m => by simp only [isPoisoned, postNotice_integ]⟩
    rw [storedPair_postNotice]
    by_cases hm : m = n
    · subst hm; simp [Hw.recordAfter, hp]
    · simp [hm]
  · next hp =>
    refine ⟨fun m => ?_, fun m => by simp only [isPoisoned, postNotice_integ]; rfl⟩
    rw [storedPair_postNotice]
    unfold writeFirst
    by_cases hm : m = n
    · subst hm
      rw [storedPair_setStored_same]
      simp [Hw.recordAfter, hp, Protected.fresh]
    · rw [storedPair_setStored_other _ _ (Ne.symm hm)]
      simp [hm]

theorem stepped_recordChanged (n : PairIx) (h : Hw) : h.Stepped (recordChanged n h) fun m => if m = n then 1 else 0 :=
  (stepped_stepRecord n h).trans (j := fun _ => 0) (.of_eq (fun _ => rfl) rfl rfl)

/-! ### Relay runs -/

/-- A pair has been asked to move, and when it stands at the target no entry of it is left (R88, R89). -/
def Relay.heldTo (u : Relay) (n : PairIx) (t : RelayPos) (q : Requester) : Prop :=
  ⟨n, t, q⟩ ∈ u.entries ∨ (u.pairs[n].moving = true ∧ u.pairs[n].target = t)
    ∨ ((u.pairs[n].moving = false ∧ u.pairs[n].pos = t) ∧ ∀ x ∈ u.entries, x.pair ≠ n)

namespace RelayRun

/-- How many changes of a pair's record a run has caused. -/
def changes (r : RelayRun) (n : PairIx) : Nat := r.out.count (.changed n)

theorem changes_emit_changed (r : RelayRun) (n m : PairIx) :
    (r.emit (.changed n)).changes m = r.changes m + if m = n then 1 else 0 := by
  unfold changes emit
  by_cases h : m = n
  · subst h; simp
  · simp [h, Ne.symm h]

theorem changes_reportDone (r : RelayRun) (n m : PairIx) (t : RelayPos) (q : Requester) :
    (r.reportDone n t q).changes m = r.changes m := by
  unfold reportDone changes emit
  cases q <;> simp

/-- The starts of moves are the changes that starting entries causes (R86, R89). -/
theorem changes_startEntries (fuel : Nat) (r : RelayRun) (n : PairIx) :
    (startEntries fuel r).changes n = r.changes n
      + if (startEntries fuel r).relay.pairs[n].moving = r.relay.pairs[n].moving then 0 else 1 := by
  induction fuel generalizing r with
  | zero => simp [startEntries]
  | succ fuel ih =>
    cases hf : freeSlot r.relay with
    | none => simp [startEntries, hf]
    | some i =>
      cases hs : firstStartable r.relay with
      | none => simp [startEntries, hf, hs]
      | some e =>
        have hm := (startable_spec (List.find?_some hs)).1
        by_cases ht : e.target = (r.modify (dropEntry e.pair)).relay.pairs[e.pair].pos
        · have hx : startEntries (fuel + 1) r
              = startEntries fuel ((r.modify (dropEntry e.pair)).reportDone e.pair e.target e.requester) := by
            rw [startEntries, hf, hs]
            exact if_pos ht
          rw [hx, ih, changes_reportDone]
          cases e.requester <;> rfl
        · have hx : startEntries (fuel + 1) r = startEntries fuel ((r.modify (dropEntry e.pair)).startMove i e) := by
            rw [startEntries, hf, hs]
            exact if_neg ht
          obtain ⟨p_self, p_other, _, _⟩ := startMove_spec (r.modify (dropEntry e.pair)) i e
          have once := (keeps_startEntries ((r.modify (dropEntry e.pair)).startMove i e) fuel).2.moves
          have hc : ((r.modify (dropEntry e.pair)).startMove i e).changes n = r.changes n + if n = e.pair then 1 else 0 :=
            changes_emit_changed _ e.pair n
          rw [hx, ih, hc]
          by_cases hn : n = e.pair
          · subst hn
            rw [(once e.pair (by rw [p_self])).1, p_self, hm]
            simp
          · rw [p_other n hn]
            simp only [hn, if_false, Nat.add_zero]
            rfl

theorem changes_take (r : RelayRun) (n m : PairIx) (t : RelayPos) (q : Requester) :
    (r.take n t q).changes m = r.changes m := by
  unfold take
  dsimp only
  split
  · split
    · exact changes_reportDone r n m t q
    · rfl
  · split <;> split <;> rfl

theorem take_pairs (r : RelayRun) (n : PairIx) (t : RelayPos) (q : Requester) :
    (r.take n t q).relay.pairs = r.relay.pairs := by
  unfold take
  dsimp only
  split
  · split
    · cases q <;> rfl
    · unfold joinQueue modify; dsimp only; split <;> rfl
  · split <;> split <;> first | rfl | (unfold joinQueue modify dropEntry; dsimp only; split <;> rfl)

theorem changes_request (r : RelayRun) (n m : PairIx) (t : RelayPos) (q : Requester) :
    (r.request n t q).changes m = r.changes m
      + if (r.request n t q).relay.pairs[m].moving = r.relay.pairs[m].moving then 0 else 1 := by
  unfold request
  rw [changes_startEntries, changes_take, take_pairs]

/-- The completion of a move is one change of its record, and the starts in the same event are others (R86). -/
theorem changes_settle (r : RelayRun) (i : SlotIx) (m : Move) (hm : r.relay.slots[i] = some m) (n : PairIx) :
    (r.settle i).changes n = r.changes n + ((if n = m.pair then 1 else 0)
      + if (r.settle i).relay.pairs[n].moving = (arrived r.relay i m).pairs[n].moving then 0 else 1) := by
  obtain ⟨z, hz, hc, hr⟩ : ∃ z : RelayRun, r.settle i = startEntries startFuel z
      ∧ z.changes n = r.changes n + (if n = m.pair then 1 else 0) ∧ z.relay = arrived r.relay i m := by
    unfold settle
    rw [hm]
    refine ⟨_, rfl, ?_, ?_⟩
    · split
      · unfold emit changes
        rw [List.count_append]
        simp only [List.count_singleton, reduceCtorEq, beq_iff_eq, if_false, Nat.add_zero]
        exact (changes_reportDone _ _ _ _ _).trans (changes_emit_changed _ _ _)
      · exact (changes_reportDone _ _ _ _ _).trans (changes_emit_changed _ _ _)
    · split <;> cases m.requester <;> rfl
  rw [hz, changes_startEntries, hc, hr, Nat.add_assoc]

theorem changes_setGuard (r : RelayRun) (n m : PairIx) (g : Guard) :
    (r.setGuard n g).changes m = r.changes m + if m = n then 1 else 0 := changes_emit_changed _ n m

/-! A pair that has been asked to move is asked still when entries have been started and others have been asked (R88, R89). -/

theorem asked_of_held {u : Relay} {n : PairIx} {t : RelayPos} {q : Requester} (h : u.heldTo n t q) : u.asked n t q :=
  h.imp id fun h => h.imp id And.left

/-- The taking of a request (R88). -/
theorem heldTo_take (r : RelayRun) (n : PairIx) (t : RelayPos) (q : Requester) : (r.take n t q).relay.heldTo n t q := by
  have join : ∀ u : Relay, (joinQueue ⟨n, t, q⟩ u).heldTo n t q := fun u => Or.inl (mem_entries_joinQueue.mpr (Or.inr rfl))
  have replace : ∀ l : List Entry, (l.any fun x => x.pair == n) = true → (⟨n, t, q⟩ : Entry) ∈ replaceEntry ⟨n, t, q⟩ l := by
    intro l hl
    obtain ⟨x, hx, hp⟩ := List.any_eq_true.mp hl
    exact List.mem_map.mpr ⟨x, hx, if_pos (by simpa using hp)⟩
  unfold take
  dsimp only
  split
  · next hno =>
    split
    · next hd =>
      have he : ∀ x ∈ r.relay.entries, x.pair ≠ n := by
        simp only [Bool.and_eq_true, Bool.not_eq_true', List.any_eq_false, beq_iff_eq] at hno
        intro x hx
        rcases List.mem_append.mp hx with hx | hx
        · exact hno.1 x hx
        · exact hno.2 x hx
      simp only [Bool.and_eq_true, Bool.not_eq_true', beq_iff_eq] at hd
      have third : r.relay.heldTo n t q := Or.inr (Or.inr ⟨⟨hd.1, hd.2.symm⟩, he⟩)
      cases q <;> exact third
    · exact join _
  · split
    · split
      · next hg => exact Or.inl (List.mem_append_left _ (replace _ hg))
      · exact join _
    · split
      · next hn => exact Or.inl (List.mem_append_right _ (replace _ hn))
      · exact join _

/-- The starting of entries (R89). -/
theorem heldTo_startEntries (fuel : Nat) (r : RelayRun) (n : PairIx) (t : RelayPos) (q : Requester)
    (hq : r.relay.queueGood) (h : r.relay.heldTo n t q) : (startEntries fuel r).relay.heldTo n t q := by
  induction fuel generalizing r with
  | zero => exact h
  | succ fuel ih =>
    cases hf : freeSlot r.relay with
    | none => simpa [startEntries, hf] using h
    | some i =>
      cases hs : firstStartable r.relay with
      | none => simpa [startEntries, hf, hs] using h
      | some e =>
        have he : e ∈ r.relay.entries := List.mem_of_find?_eq_some hs
        have hm := (startable_spec (List.find?_some hs)).1
        have same : ⟨n, t, q⟩ ∈ r.relay.entries → n = e.pair → e = ⟨n, t, q⟩ := fun hx hn =>
          List.inj_on_of_nodup_map hq.1 he hx hn.symm
        have gone : ∀ x ∈ (dropEntry e.pair r.relay).entries, x.pair ≠ e.pair := fun x hx => (mem_entries_dropEntry.mp hx).2
        by_cases ht : e.target = (r.modify (dropEntry e.pair)).relay.pairs[e.pair].pos
        · have hx : startEntries (fuel + 1) r
              = startEntries fuel ((r.modify (dropEntry e.pair)).reportDone e.pair e.target e.requester) := by
            rw [startEntries, hf, hs]
            exact if_pos ht
          have hr : ((r.modify (dropEntry e.pair)).reportDone e.pair e.target e.requester).relay
              = dropEntry e.pair r.relay := by cases e.requester <;> rfl
          rw [hx]
          refine ih _ (hr ▸ queueGood_dropEntry e.pair hq) ?_
          rw [hr]
          rcases h with h | h | ⟨h, hno⟩
          · by_cases hn : n = e.pair
            · have := same h hn
              subst this
              exact Or.inr (Or.inr ⟨⟨hm, ht.symm⟩, gone⟩)
            · exact Or.inl (mem_entries_dropEntry.mpr ⟨h, hn⟩)
          · exact Or.inr (Or.inl h)
          · exact Or.inr (Or.inr ⟨h, fun x hx => hno x (mem_entries_dropEntry.mp hx).1⟩)
        · have hx : startEntries (fuel + 1) r = startEntries fuel ((r.modify (dropEntry e.pair)).startMove i e) := by
            rw [startEntries, hf, hs]
            exact if_neg ht
          obtain ⟨p_self, p_other, _, _⟩ := startMove_spec (r.modify (dropEntry e.pair)) i e
          have hr : ((r.modify (dropEntry e.pair)).startMove i e).relay.entries = (dropEntry e.pair r.relay).entries := rfl
          rw [hx]
          refine ih _ (queueGood_dropEntry e.pair hq) ?_
          rcases h with h | h | ⟨h, hno⟩
          · by_cases hn : n = e.pair
            · have := same h hn
              subst this
              exact Or.inr (Or.inl (by rw [p_self]; exact ⟨rfl, rfl⟩))
            · exact Or.inl (hr ▸ mem_entries_dropEntry.mpr ⟨h, hn⟩)
          · by_cases hn : n = e.pair
            · subst hn
              exact absurd (hm.symm.trans h.1) Bool.false_ne_true
            · exact Or.inr (Or.inl (by rw [p_other n hn]; exact h))
          · have hn : n ≠ e.pair := fun c => hno e he c.symm
            refine Or.inr (Or.inr ⟨by rw [p_other n hn]; exact h, fun x hx => hno x ?_⟩)
            exact (mem_entries_dropEntry.mp (hr ▸ hx)).1

/-- A move request (R88, R89). -/
theorem heldTo_request (r : RelayRun) (n : PairIx) (t : RelayPos) (q : Requester) (hq : (r.take n t q).relay.queueGood) :
    (r.request n t q).relay.heldTo n t q := heldTo_startEntries _ _ n t q hq (heldTo_take r n t q)

/-- The taking of a request of another pair. -/
theorem heldTo_take_other (r : RelayRun) {n m : PairIx} (hm : m ≠ n) (t s : RelayPos) (q p : Requester)
    (h : r.relay.heldTo n t q) : (r.take m s p).relay.heldTo n t q := by
  have pairs := take_pairs r m s p
  have mem : ∀ x : Entry, x.pair = n → (x ∈ (r.take m s p).relay.entries ↔ x ∈ r.relay.entries) := by
    intro x hx
    have ne : x ≠ ⟨m, s, p⟩ := fun c => hm (by rw [← hx, c])
    have replace : ∀ l : List Entry, x ∈ replaceEntry ⟨m, s, p⟩ l ↔ x ∈ l := by
      intro l
      constructor
      · exact fun h => (mem_replaceEntry h).resolve_left ne
      · exact fun h => List.mem_map.mpr ⟨x, h, if_neg fun c => hm (c.symm.trans hx)⟩
    have drop : x ∈ (dropEntry m r.relay).entries ↔ x ∈ r.relay.entries :=
      mem_entries_dropEntry.trans ⟨And.left, fun h => ⟨h, fun c => hm (c.symm.trans hx)⟩⟩
    have join : ∀ u : Relay, (x ∈ u.entries ↔ x ∈ r.relay.entries) →
        (x ∈ (joinQueue ⟨m, s, p⟩ u).entries ↔ x ∈ r.relay.entries) := fun u hu =>
      mem_entries_joinQueue.trans ⟨fun h => hu.mp (h.resolve_right ne), fun h => Or.inl (hu.mpr h)⟩
    unfold take
    dsimp only
    split
    · split
      · cases p <;> exact Iff.rfl
      · exact join _ Iff.rfl
    · split
      · split
        · exact List.mem_append.trans ((or_congr (replace _) Iff.rfl).trans List.mem_append.symm)
        · exact join _ drop
      · split
        · exact List.mem_append.trans ((or_congr Iff.rfl (replace _)).trans List.mem_append.symm)
        · exact join _ drop
  rcases h with h | h | ⟨h, hno⟩
  · exact Or.inl ((mem _ rfl).mpr h)
  · exact Or.inr (Or.inl (by rw [pairs]; exact h))
  · exact Or.inr (Or.inr ⟨by rw [pairs]; exact h, fun x hx c => hno x ((mem x c).mp hx) c⟩)


end RelayRun

/-- A relay run changes the records it says it changes (R8, R14). -/
theorem stepped_runRelay (r : RelayRun) (h : Hw) : h.Stepped (runRelay r h) r.changes := by
  have key : ∀ (es : List RelayEffect) (g : Hw), g.Stepped (es.foldl applyRelayEffect g)
      fun n => es.count (.changed n) := by
    intro es
    induction es with
    | nil => exact fun g => .of_eq (fun _ => rfl) rfl rfl
    | cons e rest ih =>
      intro g
      cases e with
      | changed m =>
        refine ((stepped_recordChanged m g).trans (ih _)).congr fun n => ?_
        by_cases hn : n = m
        · subst hn; simp [Nat.add_comm]
        · simp [hn, Ne.symm hn]
      | report x =>
        have x : g.Stepped (send x g) fun _ => 0 := .of_eq (fun _ => rfl) rfl rfl
        refine (x.trans (ih _)).congr fun n => ?_
        simp
  have x : h.Stepped { h with relay := r.relay } fun _ => 0 := .of_eq (fun _ => rfl) rfl rfl
  exact (x.trans (key r.out _)).congr fun n => Nat.zero_add _

theorem runRelay_relay (r : RelayRun) (h : Hw) : (runRelay r h).relay = r.relay := by
  have key : ∀ (es : List RelayEffect) (g : Hw), (es.foldl applyRelayEffect g).relay = g.relay := by
    intro es
    induction es with
    | nil => exact fun _ => rfl
    | cons e rest ih =>
      intro g
      refine (ih _).trans ?_
      cases e with
      | changed m => exact recordChanged_relay m g
      | report x => rfl
  exact key r.out _

/-! ### Several guards

The guards of a block are changed pair by pair, each a change of its record (R93, R94); what follows may be told from the
state in which all of them have been changed. -/

theorem joinNotice_withRelay (n : PairIx) (p : Port) (u : Relay) (h : Hw) :
    joinNotice n p { h with relay := u } = { joinNotice n p h with relay := u } := by
  unfold joinNotice
  dsimp only
  split <;> rfl

theorem postNotice_withRelay (n : PairIx) (u : Relay) (h : Hw) :
    postNotice n { h with relay := u } = { postNotice n h with relay := u } := by
  simp only [postNotice, joinNotice_withRelay]

/-- A change of the record asks of the relay unit the position, the move and the guard of its pair alone (R11, R14). -/
theorem recordChanged_withRelay (n : PairIx) (u : Relay) (h : Hw) (hu : u.pairs[n] = h.relay.pairs[n]) :
    recordChanged n { h with relay := u } = { recordChanged n h with relay := u } := by
  have step : stepRecord n { h with relay := u } = { stepRecord n h with relay := u } := by
    unfold stepRecord
    have hp : isPoisoned { h with relay := u } n = isPoisoned h n := rfl
    rw [hp]
    split
    · exact postNotice_withRelay n u h
    · exact postNotice_withRelay n u (writeFirst n _ h)
  have keep : (stepRecord n h).relay = h.relay := recordChanged_relay n h
  unfold recordChanged refresh
  rw [step]
  have elig : exchangeEligible { stepRecord n h with relay := u } n = exchangeEligible (stepRecord n h) n := by
    unfold exchangeEligible
    simp only [keep, hu]
    rfl
  rw [elig]
  rfl

/-- The relay unit with the guard of some pairs set. -/
def Relay.withGuards (g : Guard) (ns : List PairIx) (u : Relay) : Relay :=
  ns.foldl (fun (u : Relay) (n : PairIx) => { u with pairs := u.pairs.set n { u.pairs[n] with guard := g } }) u

theorem Relay.withGuards_other (g : Guard) (ns : List PairIx) (u : Relay) (m : PairIx) (hm : m ∉ ns) :
    (u.withGuards g ns).pairs[m] = u.pairs[m] := by
  induction ns generalizing u with
  | nil => rfl
  | cons n rest ih =>
    have hn : n.val ≠ m.val := fun c => hm (by rw [← Fin.ext c]; exact List.mem_cons_self ..)
    refine (ih _ fun c => hm (List.mem_cons_of_mem _ c)).trans ?_
    simp [hn]

theorem Follows.setGuards {a b : Hw} (g : Guard) (ns : List PairIx) (hn : ns.Nodup)
    (h : Follows a { b with relay := b.relay.withGuards g ns }) :
    Follows a (ns.foldl (fun h n => Sys2Proof.Machine.setGuard n g h) b) := by
  induction ns generalizing b with
  | nil => exact h
  | cons n rest ih =>
    rw [List.nodup_cons] at hn
    refine ih hn.2 ?_
    have e : (Sys2Proof.Machine.setGuard n g b).relay
        = { b.relay with pairs := b.relay.pairs.set n { b.relay.pairs[n] with guard := g } } := recordChanged_relay n _
    have x := recordChanged_withRelay n (b.relay.withGuards g (n :: rest))
      { b with relay := { b.relay with pairs := b.relay.pairs.set n { b.relay.pairs[n] with guard := g } } }
      (Relay.withGuards_other g rest _ n hn.1)
    rw [e]
    exact x ▸ h.recordChanged n

end Sys2Proof.Machine
end

