-- ==== Sys2Proof/Laws/Eligible.lean ====
section
/-! SUPPORT. How the line bus controller's eligible set follows exchange eligibility (R11): a change of one pair leaves the
set right for every other, a report makes it right for that pair, and an entry to FAULT HOLD for all; and a flush leaves its
queue empty (R10, R33). -/

namespace Sys2Proof.Machine

/-- The eligible set is right for every pair but those that have changed and are not reported yet. -/
def Hw.shownBut (off : PairIx → Prop) (h : Hw) : Prop :=
  ∀ m : PairIx, ¬ off m → h.line.eligible[m] = exchangeEligible h m

theorem Hw.exchangeShown_iff (h : Hw) : h.exchangeShown ↔ h.shownBut fun _ => False :=
  ⟨fun s m _ => s m, fun s m => s m id⟩

variable {off : PairIx → Prop}

theorem Hw.shownBut.of_eq {a b : Hw} (s : a.shownBut off) (hl : b.line.eligible = a.line.eligible)
    (he : ∀ m, ¬ off m → exchangeEligible b m = exchangeEligible a m) : b.shownBut off := fun m hm => by
  rw [hl, he m hm]
  exact s m hm

theorem Hw.shownBut.mono {h : Hw} {more : PairIx → Prop} (s : h.shownBut off) (hm : ∀ m, off m → more m) :
    h.shownBut more :=
  fun m hn => s m fun ho => hn (hm m ho)

/-- A report makes the set right for its pair. -/
theorem Hw.shownBut.refresh {h : Hw} (n : PairIx) (s : h.shownBut off) :
    (refresh n h).shownBut fun m => off m ∧ m ≠ n := by
  intro m hm
  show (h.line.eligible.set n (exchangeEligible h n))[m] = exchangeEligible h m
  by_cases e : m = n
  · subst e
    simp
  · have hn : n.val ≠ m.val := fun x => e (Fin.ext x.symm)
    have := s m fun ho => hm ⟨ho, e⟩
    simpa [Fin.getElem_fin, Vector.getElem_set, hn] using this

theorem joinNotice_eligible (n : PairIx) (p : Port) (h : Hw) :
    (joinNotice n p h).line = h.line ∧ ∀ m, exchangeEligible (joinNotice n p h) m = exchangeEligible h m := by
  unfold joinNotice
  split <;> exact ⟨rfl, fun _ => rfl⟩

theorem postNotice_eligible (n : PairIx) (h : Hw) :
    (postNotice n h).line = h.line ∧ ∀ m, exchangeEligible (postNotice n h) m = exchangeEligible h m := by
  unfold postNotice
  have a := joinNotice_eligible n .sup h
  have b := joinNotice_eligible n .trk (joinNotice n .sup h)
  have c := joinNotice_eligible n .tst (joinNotice n .trk (joinNotice n .sup h))
  exact ⟨by rw [c.1, b.1, a.1], fun m => by rw [c.2, b.2, a.2]⟩

/-- A write of a first word that keeps the service changes no eligibility. -/
theorem writeFirst_eligible (n : PairIx) (w : ServiceWord) (h : Hw) (hw : w.service = (storedPair h n).first.val.service)
    (m : PairIx) : exchangeEligible (writeFirst n w h) m = exchangeEligible h m := by
  have hs : (storedPair (writeFirst n w h) m).first.val.service = (storedPair h m).first.val.service := by
    by_cases e : m = n
    · subst e
      simp [writeFirst, setStored, storedPair, Protected.fresh] at hw ⊢
      exact hw
    · have hn : n.val ≠ m.val := fun x => e (Fin.ext x.symm)
      simp [writeFirst, setStored, storedPair, hn]
  unfold exchangeEligible queueEligible
  rw [hs]
  rfl

theorem stepRecord_eligible (n : PairIx) (h : Hw) :
    (stepRecord n h).line = h.line ∧ ∀ m, exchangeEligible (stepRecord n h) m = exchangeEligible h m := by
  unfold stepRecord
  split
  · exact postNotice_eligible n h
  · have a := postNotice_eligible n (writeFirst n
      { (storedPair h n).first.val with version := (storedPair h n).first.val.version + 1 } h)
    refine ⟨a.1, fun m => ?_⟩
    show exchangeEligible (postNotice n (writeFirst n _ h)) m = _
    rw [a.2]
    exact writeFirst_eligible n { (storedPair h n).first.val with version := (storedPair h n).first.val.version + 1 } h rfl m

theorem Hw.shownBut.stepRecord {h : Hw} (n : PairIx) (s : h.shownBut off) : (stepRecord n h).shownBut off :=
  s.of_eq (by rw [(stepRecord_eligible n h).1]) fun m _ => (stepRecord_eligible n h).2 m

/-- A change of a pair's record, reported (R8, R11). -/
theorem Hw.shownBut.recordChanged {h : Hw} (n : PairIx) (s : h.shownBut off) :
    (recordChanged n h).shownBut fun m => off m ∧ m ≠ n := (s.stepRecord n).refresh n

/-- An entry to FAULT HOLD empties the set, as no pair is exchange-eligible any longer (R11, R174). -/
theorem enterFaultHold_shown (kind : HoldKind) (i : Nat) (h : Hw) : (enterFaultHold kind i h).exchangeShown := by
  intro m
  simp [enterFaultHold, endExchange, exchangeEligible]

theorem Hw.shownBut.send {h : Hw} (r : Request) (s : h.shownBut off) : (send r h).shownBut off := s.of_eq rfl fun _ _ => rfl

theorem Hw.shownBut.postNotice {h : Hw} (n : PairIx) (s : h.shownBut off) : (postNotice n h).shownBut off :=
  s.of_eq (congrArg LineBus.eligible (postNotice_eligible n h).1) fun m _ => (postNotice_eligible n h).2 m

theorem Hw.shownBut.recordError {h : Hw} (i : Nat) (s : h.shownBut off) : (recordError i h).shownBut off := by
  unfold Machine.recordError
  split
  · exact s.of_eq rfl fun _ _ => rfl
  · split
    · exact s
    · exact fun m _ => enterFaultHold_shown _ _ _ m

theorem Hw.shownBut.recordUncorrectable {h : Hw} (i : Nat) (s : h.shownBut off) :
    (recordUncorrectable i h).shownBut off := by
  unfold Machine.recordUncorrectable
  split
  · exact s
  · split
    · exact fun m _ => enterFaultHold_shown _ _ _ m
    · exact s.recordError i

theorem Hw.shownBut.noteCorrected {h : Hw} (s : h.shownBut off) : (noteCorrected h).shownBut off := by
  unfold Machine.noteCorrected
  split
  · exact s
  · dsimp only
    split
    · exact s.of_eq rfl fun _ _ => rfl
    · exact s.of_eq rfl fun _ _ => rfl

theorem Hw.shownBut.applyEffect {h : Hw} (e : StoreEffect) (s : h.shownBut off) : (applyEffect h e).shownBut off := by
  cases e with
  | corrected => exact s.noteCorrected
  | uncorrectable i => exact s.recordUncorrectable i
  | brokenRead i => exact s.recordError i
  | event f => exact s.of_eq rfl fun _ _ => rfl
  | congested q =>
    unfold Machine.applyEffect
    dsimp only
    split
    · exact s.stepRecord _
    · exact s

/-- No operation of the queue engine makes the set wrong for a pair for which it was right. -/
theorem Hw.shownBut.runStore {h : Hw} (r : StoreRun) (s : h.shownBut off) : (runStore r h).shownBut off := by
  unfold Machine.runStore
  generalize r.out = out
  have t : ({ h with store := r.store } : Hw).shownBut off := s.of_eq rfl fun _ _ => rfl
  revert t
  generalize ({ h with store := r.store } : Hw) = g
  intro t
  induction out generalizing g with
  | nil => exact t
  | cons e es ih => exact ih _ (t.applyEffect e)

theorem Hw.shownBut.flushPair {h : Hw} (n : PairIx) (s : h.shownBut off) : (flushPair n h).shownBut off :=
  Hw.shownBut.runStore _ (Hw.shownBut.runStore _ s)

/-- Poisoning reports its pair (R12): it leaves the set right. -/
theorem poison_shown (n : PairIx) {h : Hw} (s : h.exchangeShown) : (poison n h).exchangeShown := by
  unfold poison
  split
  · exact s
  · rw [Hw.exchangeShown_iff]
    have a : (setPowerPair n { h.power.pairs[n] with frozen := true }
        { h with integ := { h.integ with poisoned := h.integ.poisoned.set n true } }).shownBut fun m => m = n := by
      refine Hw.shownBut.of_eq (a := h) (fun m _ => s m) rfl fun m hm => ?_
      have hn : n.val ≠ m.val := fun x => hm (Fin.ext x.symm)
      have hp : (h.integ.poisoned.set n true)[m] = h.integ.poisoned[m] := by simp [hn]
      have hw : (h.power.pairs.set n { h.power.pairs[n] with frozen := true })[m] = h.power.pairs[m] := by simp [hn]
      show ((_ && ((h.power.pairs.set n { h.power.pairs[n] with frozen := true })[m]).powered
        && !(h.integ.poisoned.set n true)[m]) && _ && _ && _ && _ && _) = _
      rw [hp, hw]
      rfl
    have b := ((a.flushPair n).refresh n).mono (more := fun _ => False) fun m hm => hm.2 hm.1
    exact (b.send (.poisonAbort n)).postNotice n

/-- A change that concerns one pair alone is reported with it (R11). -/
theorem changing_shown (n : PairIx) (f : Hw → Hw) {h : Hw} (s : (f h).shownBut fun m => m = n) :
    (changing n f h).exchangeShown := by
  have a := (s.refresh n).mono (more := fun _ => False) fun m hm => hm.2 hm.1
  rw [Hw.exchangeShown_iff]
  unfold changing
  dsimp only
  split
  · exact a.flushPair n
  · exact a

/-- The pair field of a bus that has no other pair changes with a report of its pair (R11, R102). -/
theorem setBusPair_shown (k : BusId) (n : PairIx) (on : Bool) {h : Hw} (s : h.exchangeShown)
    (hk : (busRecord h k).pair = none ∨ (busRecord h k).pair = some n) : (setBusPair k n on h).exchangeShown := by
  rw [Hw.exchangeShown_iff]
  have a : (setBus k { busRecord h k with pair := if on then some n else none } h).shownBut fun m => m = n := by
    refine Hw.shownBut.of_eq (a := h) (fun m _ => s m) rfl fun m hm => ?_
    have hb : busOf (setBus k { busRecord h k with pair := if on then some n else none } h) m = busOf h m := by
      have hn : n ≠ m := fun x => hm x.symm
      cases k <;> cases on <;> rcases hk with hk | hk <;>
        simp [busRecord, PerBus.get] at hk <;> simp [busOf, setBus, PerBus.set, hk, hn]
    unfold exchangeEligible
    rw [hb]
    rfl
  exact (a.recordChanged n).mono fun m hm => hm.2 hm.1

namespace RelayRun

/-- The pairs whose changes a run has still to report. -/
def reports (r : RelayRun) (m : PairIx) : Prop := RelayEffect.changed m ∈ r.out

end RelayRun

theorem Hw.shownBut.relayEffects (es : List RelayEffect) {h : Hw} (s : h.shownBut off) :
    (es.foldl applyRelayEffect h).shownBut fun m => off m ∧ RelayEffect.changed m ∉ es := by
  induction es generalizing h off with
  | nil => exact s.mono fun m hm => ⟨hm, by simp⟩
  | cons e es ih =>
    cases e with
    | changed n =>
      refine (ih (s.recordChanged n)).mono fun m hm => ⟨hm.1.1, fun hc => ?_⟩
      rcases List.mem_cons.1 hc with e | e
      · exact hm.1.2 (RelayEffect.changed.inj e)
      · exact hm.2 e
    | report q =>
      refine (ih (s.send q)).mono fun m hm => ⟨hm.1, fun hc => ?_⟩
      rcases List.mem_cons.1 hc with e | e
      · cases e
      · exact hm.2 e

/-- A run of the relay unit that reports every pair it has changed leaves the set right (R8, R11). -/
theorem runRelay_shown (r : RelayRun) {h : Hw} (s : h.exchangeShown)
    (hr : ∀ m, ¬ r.reports m → r.relay.pairs[m] = h.relay.pairs[m]) : (runRelay r h).exchangeShown := by
  rw [Hw.exchangeShown_iff]
  have a : ({ h with relay := r.relay } : Hw).shownBut r.reports := by
    refine Hw.shownBut.of_eq (a := h) (fun m _ => s m) rfl fun m hm => ?_
    unfold exchangeEligible
    show (_ && (r.relay.pairs[m].pos == RelayPos.through) && !r.relay.pairs[m].moving
      && (r.relay.pairs[m].guard == Guard.none) && _ && _) = _
    rw [hr m hm]
    rfl
  exact (a.relayEffects r.out).mono fun m hm => hm.2 hm.1

/-! ### Flushes -/

/-- A descriptor written is the one that stands. -/
theorem StoreRun.writeDescriptor_fields (q : QueueIx) (d : Descriptor) (r : StoreRun) :
    (r.writeDescriptor q d).store.descriptors[q].fields = d := by
  unfold StoreRun.writeDescriptor
  dsimp only
  split <;> simp [StoreRun.modify, StoreRun.emit, DescriptorWords.fresh]

/-- A broken queue is empty (R37). -/
theorem StoreRun.breakQueue_count (q : QueueIx) (b : Bool) (r : StoreRun) :
    (r.breakQueue q b).store.descriptors[q].fields.count = 0 := by
  unfold StoreRun.breakQueue
  rw [StoreRun.writeDescriptor_fields]
  split <;> rfl

/-- A flush leaves its queue empty, whatever it reads on the way (R10, R33). -/
theorem StoreRun.flush_count (q : QueueIx) (r : StoreRun) :
    (r.flush q).2.store.descriptors[q].fields.count = 0 := by
  unfold StoreRun.flush
  dsimp only
  split
  · assumption
  · split
    · exact StoreRun.breakQueue_count _ _ _
    · rw [StoreRun.writeDescriptor_fields]
      rfl

end Sys2Proof.Machine
end

