-- ==== Sys2Proof/Laws/Tables.lean ====
section
/-! SUPPORT. What a checked read of one word of table RAM by the scrubber or TABLE READ does when the word is uncorrectable,
area by area (R37, R39, R42, R127, R169), one equation for each. -/

namespace Sys2Proof.Machine

theorem Protected.read_of_uncorrectable {α : Type} {w : Protected α} (h : w.upset.outcome = .uncorrectable) :
    w.read = none := by
  simp [Protected.read, h]

theorem Protected.read_of_readable {α : Type} {w : Protected α} (h : w.upset.outcome ≠ .uncorrectable) :
    w.read = some w.val := by
  unfold Protected.read
  split
  · rfl
  · rfl
  · next hu => exact absurd hu h

theorem Protected.afterRead_of_uncorrectable {α : Type} {w : Protected α} (h : w.upset.outcome = .uncorrectable) :
    w.afterRead = w := by
  unfold Protected.afterRead
  split
  · next hu => rw [hu] at h; cases h
  · rfl
  · rfl

/-! ### Overlay channels -/

/-- An undamaged word of a channel is read without effect. -/
theorem checkChannelWord_good (c : Fin 4) (w : Fin 3) (h : Hw) (hu : (channelOf h c).upset w = .none) :
    checkChannelWord c w h = h := by
  unfold checkChannelWord
  rw [hu]
  rfl

/-- An uncorrectable word of a poisoned channel is a known error, which changes nothing (R169). -/
theorem checkChannelWord_known (c : Fin 4) (w : Fin 3) (h : Hw) (hp : (channelOf h c).poisoned = true)
    (hu : ((channelOf h c).upset w).outcome = .uncorrectable) : checkChannelWord c w h = h := by
  have hk : isKnown (overlayIndex c w.val) h = true := by
    have ha : areaOf (overlayIndex c w.val) = .overlay := by
      unfold areaOf overlayIndex
      split_ifs <;> first | omega | rfl
    have hc : (overlayIndex c w.val - 4361) / 3 = c.val := by unfold overlayIndex; omega
    unfold isKnown
    rw [ha, hc]
    have hp' : (h.meas.channels[c.val]).poisoned = true := hp
    simp [hp']
  unfold checkChannelWord
  rw [hu]
  simp only [recordUncorrectable, hk, if_true]
  have : ({ channelOf h c with poisoned := true } : Channel) = channelOf h c := by rw [← hp]
  rw [this]
  unfold setChannel channelOf
  simp

/-! ### The store -/

namespace StoreRun

theorem check_of_uncorrectable {u : Upset} (i : Nat) (r : StoreRun) (h : u.outcome = .uncorrectable) :
    r.check u i = r.emit (.uncorrectable i) := by
  simp [check, h]

/-- An uncorrectable generation word is reported, and stands (R42). -/
theorem readGeneration_of_uncorrectable (q : QueueIx) (r : StoreRun)
    (h : r.store.generations[q].upset.outcome = .uncorrectable) :
    r.readGeneration q = (none, r.emit (.uncorrectable (generationIndex q))) := by
  unfold readGeneration
  dsimp only
  rw [check_of_uncorrectable _ _ h, Protected.read_of_uncorrectable h, Protected.afterRead_of_uncorrectable h]
  simp [modify, emit]

/-- An uncorrectable free generation word is reported, and stands (R42). -/
theorem readFreeGeneration_of_uncorrectable (r : StoreRun) (h : r.store.freeGeneration.upset.outcome = .uncorrectable) :
    r.readFreeGeneration = (none, r.emit (.uncorrectable freeGenerationIndex)) := by
  unfold readFreeGeneration
  dsimp only
  rw [check_of_uncorrectable _ _ h, Protected.read_of_uncorrectable h, Protected.afterRead_of_uncorrectable h]
  rfl

/-- An uncorrectable owner word is rewritten RETIRED, the error and RETIRED being reported; no reclaim follows (R39, R41). -/
theorem readOwnerWord_of_uncorrectable (c : CellIx) (reclaims : Bool) (r : StoreRun)
    (h : (r.store.owner c).upset.outcome = .uncorrectable) :
    r.readOwnerWord c reclaims
      = ⟨r.store.setOwner c (.fresh .retired), r.out ++ [.uncorrectable (ownerIndex c), .event .retired]⟩ := by
  unfold readOwnerWord readOwner
  dsimp only
  rw [check_of_uncorrectable _ _ h, Protected.read_of_uncorrectable h]
  simp [h, writeOwner, modify, emit]

/-- The store after a queue break: the descriptor is empty, and the generation has advanced when it can be read (R35, R37,
R42). -/
theorem breakQueue_store (q : QueueIx) (b : Bool) (r : StoreRun) :
    ∃ d : Descriptor,
      d = (if b then .empty Config.defaultLimit Config.defaultHighMark
        else .empty r.store.descriptors[q].fields.limit r.store.descriptors[q].fields.highMark)
      ∧ (r.breakQueue q b).store = { r.store with
        descriptors := r.store.descriptors.set q (.fresh d)
        congested := r.store.congested.set q (congestedNow d r.store.congested[q])
        generations := if r.store.generations[q].upset.outcome = .uncorrectable then r.store.generations
          else r.store.generations.set q (.fresh (r.store.generations[q].val + 1)) } := by
  refine ⟨_, rfl, ?_⟩
  have written : ∀ (x : StoreRun) (d : Descriptor), (x.writeDescriptor q d).store = { x.store with
      descriptors := x.store.descriptors.set q (.fresh d)
      congested := x.store.congested.set q (congestedNow d x.store.congested[q]) } := by
    intro x d
    unfold writeDescriptor
    dsimp only
    split <;> rfl
  unfold breakQueue
  by_cases h : r.store.generations[q].upset.outcome = .uncorrectable
  · rw [readGeneration_of_uncorrectable q r h]
    dsimp only
    rw [written, if_pos h]
    rfl
  · have hc : ∀ i, (r.check r.store.generations[q].upset i).store = r.store := by
      intro i
      unfold check
      split <;> rfl
    unfold readGeneration
    dsimp only
    rw [Protected.read_of_readable h]
    dsimp only
    rw [written, if_neg h]
    simp only [emit, modify, hc]
    simp [Protected.fresh]

/-- The store after an uncorrectable descriptor word has been read alone: all three words are written, with limit 64 and high
mark 48, and the flag is clear (R37, log 55). -/
theorem readDescriptorWord_of_uncorrectable (q : QueueIx) (w : Fin 3) (r : StoreRun)
    (h : (r.store.descriptors[q].upset w).outcome = .uncorrectable) :
    (r.readDescriptorWord q w).store = { r.store with
      descriptors := r.store.descriptors.set q ⟨⟨none, none, 0, 64, 48, 0, none⟩, .none, .none, .none⟩
      congested := r.store.congested.set q false
      generations := if r.store.generations[q].upset.outcome = .uncorrectable then r.store.generations
        else r.store.generations.set q ⟨r.store.generations[q].val + 1, .none⟩ } := by
  unfold readDescriptorWord
  dsimp only
  rw [if_pos h, check_of_uncorrectable _ _ h]
  obtain ⟨d, hd, hs⟩ := breakQueue_store q true ((r.emit (.uncorrectable (descriptorIndex q w.val))).modify fun s =>
    { s with descriptors := s.descriptors.set q (r.store.descriptors[q].setUpset (corrected (r.store.descriptors[q].upset w)) w) })
  rw [hs, hd, if_pos rfl]
  simp [modify, emit, congestedNow, Descriptor.empty, DescriptorWords.fresh, Protected.fresh, Config.defaultLimit,
    Config.defaultHighMark]
  rfl

end StoreRun

end Sys2Proof.Machine
end

