-- ==== Sys2Proof/WellFormed.lean ====
section
/-! DEFINITION. The commands that the outside can send: what no port unit passes (R181, R182, R185) and no control byte
spells (R184) is ill-formed. -/

namespace Sys2Proof

/-- A frame carries at most 14 argument bytes (R181). -/
def argsFit (args : List Byte) : Bool := decide (args.length ≤ 14)

/-- A control byte that names neither request has bits 1 and 0 clear (R184, R195). -/
def IgnoredWrite.wf : IgnoredWrite → Bool
  | .address3 _ => true
  | .control b => !b.getLsbD 0 && !b.getLsbD 1

/-- A command of the command code table comes from a port that may issue it, with at most 14 argument bytes (R182,
R185). -/
def passingWf : Option (Cmd × Port × List Byte) → Bool
  | some (c, p, args) => Machine.admits p c && argsFit args
  | none => true

/-- A command that the outside can send. -/
def Instr.wf (i : Instr) : Bool :=
  passingWf i.passing &&
    (match i with
      | .registerWriteIgnored _ w => w.wf
      | _ => true)

end Sys2Proof
end

