-- ==== Sys2Proof/Tests/Slice0.lean ====
section
/-! SUPPORT. Small tests: what the check of well-formedness refuses; for each statement a state and operands that meet its
hypotheses, with what the model answers there. -/

namespace Sys2Proof.Tests

open Sys2Proof Sys2Proof.Machine

set_option Elab.async false

/-! ### Building states -/

/-- The part after one command. -/
def after (i : Instr) (s : State) : Hw :=
  match exec i s with
  | .next t => t.hw
  | .fault _ | .refused _ => s.hw

/-- A port has passed a command and waits for its owner. -/
def passes (p : Port) (c : Cmd) (args : List Byte) (h : Hw) : State :=
  ⟨setPort p { PortUnit.reset with state := .working, passed := some ⟨c, args⟩ } h, []⟩

/-- The part alone, no command waiting. -/
def alone (h : Hw) : State := ⟨h, []⟩

/-- The bytes of a port's answer. -/
def answerOf (p : Port) (h : Hw) : List Byte := ((portOf h p).answer.map AnswerBuffer.bytes).getD []

/-- What a port reads after a command that it has passed. -/
def reply (i : Instr) (c : Cmd) (p : Port) (args : List Byte) (h : Hw) : List Byte :=
  answerOf p (after i (passes p c args h))

def faulted : Hw := { Hw.reset with integ := { Hw.reset.integ with faultHold := true } }

/-- Pair n in service: ACTIVE, of a tier and a weight, POWERED, THROUGH, and in both eligible sets. -/
def serving (n : PairIx) (tier : Fin 4) (weight : Fin 16) (h : Hw) : Hw :=
  { h with
    pairTable := ⟨h.pairTable.stored.set n ⟨.fresh ⟨.active, tier, weight, 0⟩, .fresh .reset, .fresh 0⟩,
      h.pairTable.notices⟩
    power := { h.power with floor := 4, pairs := h.power.pairs.set n ⟨tier, .active, false, true, true⟩ }
    relay := { h.relay with pairs := h.relay.pairs.set n ⟨.through, false, .through, .none, some .through⟩ }
    sched := { h.sched with eligible := h.sched.eligible.set n true }
    line := { h.line with eligible := h.line.eligible.set n true } }

/-- Queue q holds cell 0 alone, urgent or not, of ten bytes; the free list begins at cell 1. -/
def holding (q : QueueIx) (urgent : Bool) (h : Hw) : Hw :=
  { h with store := { h.store with
      descriptors := h.store.descriptors.set q (.fresh ⟨some 0, some 0, 1, 64, 48, if urgent then 1 else 0,
        if urgent then some 0 else none⟩)
      owners := [(0, .fresh (.queue q 0))]
      links := [(0, .fresh ⟨.fin, 10⟩)]
      freeHead := some 1
      freeCount := 2047 } }

/-- The trunk transmit hold is occupied, by cell 2047. -/
def occupied (h : Hw) : Hw := { h with store := { h.store with holds := { h.store.holds with trunkTx := some 2047 } } }

/-- A bus in a state, with a holder and a pair. -/
def onBusState (k : BusId) (st : BusState) (holder : Option Port) (pair : Option PairIx) (h : Hw) : Hw :=
  setBus k ⟨st, holder, [], pair, none, none, none⟩ h

/-- Bus 1 is BUSY with the MEASURE of pair 23, at the front of the FIFO. -/
def measuring : Hw :=
  onBusState .bus1 .busy (some .tst) (some 23) { Hw.reset with meas := { Hw.reset.meas with
    fifo := [⟨.bus1, 23, .measure, ⟨true, true, true⟩⟩]
    stage := some .foreign
    stageTimer := some 0
    results := Hw.reset.meas.results.set .bus1 (opened .measure 23 ⟨true, true, true⟩ none) } }

/-- Bus 1 is SELECTING pair 23. -/
def selecting : Hw :=
  onBusState .bus1 .selecting (some .tst) (some 23) { Hw.reset with meas := { Hw.reset.meas with
    results := Hw.reset.meas.results.set .bus1 (opened .select 23 ⟨false, false, false⟩ none) } }

/-- Bus 1 is READY with pair 23. -/
def ready : Hw := onBusState .bus1 .ready (some .tst) (some 23) Hw.reset

/-- Port TST holds bus 1 and port SUP waits for it. -/
def contended : Hw := setBus .bus1 ⟨.held, some .tst, [.sup], none, none, some 9, none⟩ Hw.reset

/-- Every group is enabled at port SUP. -/
def listening (h : Hw) : Hw := setEventsOf .sup { eventsOf h .sup with enable := Vector.replicate 8 true } h

/-- Pair n is poisoned. -/
def poisonedAt (n : PairIx) (h : Hw) : Hw :=
  { h with integ := { h.integ with poisoned := h.integ.poisoned.set n true } }

/-- Bus 1 measures pair 23, and behind it bus 0 waits to measure pair 22. -/
def queued : Hw :=
  let h := onBusState .bus0 .busy (some .sup) (some 22) measuring
  { h with meas := { h.meas with
      fifo := h.meas.fifo ++ [⟨.bus0, 22, .measure, ⟨true, true, true⟩⟩]
      results := h.meas.results.set .bus0 (opened .measure 22 ⟨true, true, true⟩ none) } }

/-- The one request of the FIFO is of a bus, in a stage with its timer, under a setup. -/
def atStage (k : BusId) (timer : Nat) (setup : Option (BusId × Stage)) (h : Hw) : Bool :=
  decide (h.meas.fifo.map TestRequest.bus = [k]) && decide (h.meas.stage = some .foreign)
    && decide (h.meas.stageTimer = some timer) && decide (h.meas.setup = setup)

/-- The scrub cursor stands at a word. -/
def scrubbing (i : Nat) (gate : ScrubGate) (h : Hw) : Hw := { h with integ := { h.integ with cursor := i, gate := gate } }

/-- What a scrub of the word at an index leaves, the word having two upset bits. -/
def scrubbed (i : Nat) (h : Hw) : Hw := after .scrubTimerExpiry (alone (scrubbing i .none (upsetWord i (.double 0 0) h)))

/-- UPQ[0] holds cell 0 and is congested. -/
def congestedQueue : Hw :=
  let h := holding (upq 0) false (serving 0 0 1 Hw.reset)
  { h with store := { h.store with congested := h.store.congested.set (upq 0) true } }

/-- A command passed is a command that waits. -/
theorem waits_passes (p : Port) (c : Cmd) (args : List Byte) (h : Hw) (hr : h.requests = []) :
    Waits (passes p c args h) p c args := by
  cases p <;> exact ⟨rfl, hr⟩

theorem faultHold_passes (p : Port) (c : Cmd) (args : List Byte) (h : Hw) :
    (passes p c args h).hw.integ.faultHold = h.integ.faultHold := by
  cases p <;> rfl

theorem pairsGood_reset : Hw.reset.pairsGood := by
  unfold Hw.pairsGood Hw.undamaged
  decide +kernel

theorem queueGood_reset : Hw.reset.relay.queueGood := by
  unfold Relay.queueGood Relay.entries
  decide

/-- The bus record of each of the four states is coherent, and so are a bus in DESELECTING and a free one. -/
theorem coherent_records :
    (busRecord measuring .bus1).coherent ∧ (busRecord selecting .bus1).coherent ∧ (busRecord ready .bus1).coherent
    ∧ (busRecord contended .bus1).coherent ∧ BusRecord.reset.coherent
    ∧ (⟨.deselecting, none, [], none, some 23, none, none⟩ : BusRecord).coherent
    ∧ (busRecord (onBusState .bus1 .held (some .tst) none Hw.reset) .bus1).coherent := by
  refine ⟨?_, ?_, ?_, ?_, ?_, ?_, ?_⟩ <;> (unfold BusRecord.coherent; decide +kernel)

/-- The part with work on a bus has the invariant of the buses. -/
theorem busesCoherent_states : Hw.reset.busesCoherent ∧ measuring.busesCoherent ∧ contended.busesCoherent := by
  refine ⟨⟨fun k => ?_, ?_⟩, ⟨fun k => ?_, ?_⟩, ⟨fun k => ?_, ?_⟩⟩
  all_goals first
    | (cases k <;> (unfold BusRecord.coherent; decide +kernel))
    | decide +kernel

/-! ### Well-formed commands -/

theorem test_wf_refuses_unmarked_port : (Instr.provision .sup [0, 1]).wf = false := by decide
theorem test_wf_refuses_fifteen_arguments : (Instr.readPair .sup (List.replicate 15 0)).wf = false := by decide
theorem test_wf_refuses_control_byte_that_asks : (Instr.registerWriteIgnored .sup (.control 1)).wf = false
    ∧ (Instr.registerWriteIgnored .sup (.control 2)).wf = false := by decide
theorem test_wf_takes_marked_port : (Instr.provision .trk [0, 1]).wf = true
    ∧ (Instr.readPair .tst (List.replicate 14 0)).wf = true
    ∧ (Instr.registerWriteIgnored .sup (.control 0xFC)).wf = true := by decide

/-! ### The machine and its ports -/

theorem test_IdleStepPassesOneMillisecond : State.reset.pending = [] := rfl

theorem test_CommandNotPassedChangesNothing :
    Instr.passing (.measure .tst [0]) = some (.measure, .tst, [0])
    ∧ (portOf Hw.reset .tst).passed ≠ some ⟨.measure, [0]⟩
    ∧ after (.measure .tst [0]) State.reset = Hw.reset := by decide +kernel

theorem test_TakenCommandAnswersItsPort :
    Waits (passes .trk .readPool [] Hw.reset) .trk .readPool []
    ∧ Waits (alone (setPort .trk { (portOf (passes .trk .readPool [] Hw.reset).hw .trk) with abortMark := true } Hw.reset))
        .trk .readPool []
    ∧ reply (.readPool .trk []) .readPool .trk [] Hw.reset = [0x13, 0, 10, 8, 0, 0, 0, 0, 0, 0, 0, 0, 0] := by
  refine ⟨waits_passes _ _ _ _ rfl, ⟨rfl, rfl⟩, ?_⟩
  decide +kernel

/-- A port that collects a frame: code and perhaps count have arrived. -/
def collects (p : Port) (code : Byte) (count : Option Nat) (args : List Byte) : Hw :=
  setPort p { PortUnit.reset with state := .collecting, frame := ⟨some code, count, args⟩, gapTimer := some 50 } Hw.reset

/-- Count bytes 0, 14 and 15, the last argument byte, and the codes of a row, of none, and of a row not marked. -/
theorem test_FrameIsBuiltTakenOrDiscarded :
    (portOf (after (.frameByteWrite .sup 0x13) State.reset) .sup).state = .collecting
    ∧ (portOf (after (.frameByteWrite .sup 0) (alone (collects .sup 0x13 none []))) .sup).state = .working
    ∧ (portOf (after (.frameByteWrite .sup 14) (alone (collects .sup 0x13 none []))) .sup).state = .collecting
    ∧ answerOf .sup (after (.frameByteWrite .sup 15) (alone (collects .sup 0x13 none []))) = [0x13, 5, 0]
    ∧ answerOf .sup (after (.frameByteWrite .sup 0) (alone (collects .sup 0x00 none []))) = [0, 0x10, 0]
    ∧ answerOf .sup (after (.frameByteWrite .sup 9) (alone (collects .sup 0x03 (some 2) [9]))) = [3, 3, 0]
    ∧ (portOf (after (.frameByteWrite .sup 9) (alone (collects .sup 0x01 (some 3) [9]))) .sup).state = .collecting
    ∧ (portOf (after (.frameByteWrite .sup 9) (passes .sup .readPool [] Hw.reset)) .sup).overrun = true
    ∧ (portOf (after (.gapTimerExpiry .sup) (alone (collects .sup 1 none []))) .sup).gap = true := by decide +kernel

/-- An answer of which two bytes are left, and of which one is. -/
theorem test_RegisterReadsAnswerAndStatus :
    (portOf (after (.answerByteRead .sup) (alone (setPort .sup
      { PortUnit.reset with state := .answer, answer := some ⟨[1, 0, 7], 1⟩ } Hw.reset))) .sup).dataOut = 0
    ∧ (portOf (after (.answerByteRead .sup) (alone (setPort .sup
      { PortUnit.reset with state := .answer, answer := some ⟨[1, 0, 7], 2⟩ } Hw.reset))) .sup).state = .idle
    ∧ (portOf (after (.statusRead .sup) (alone (setPort .sup
      { PortUnit.reset with state := .answer, overrun := true, gap := true } Hw.reset))) .sup).dataOut = 15 := by
  decide +kernel

theorem test_PortClearDiscardsPortsThings : Hw.reset.orderly ∧ Hw.reset.requests = []
    ∧ (∀ k, (busRecord Hw.reset k).holder ≠ some .tst) := by
  refine ⟨?_, rfl, ?_⟩ <;> (intro k; cases k)
  · exact ⟨List.nodup_nil, fun _ h => (by cases h), fun _ => rfl⟩
  · exact ⟨List.nodup_nil, fun _ h => (by cases h), fun _ => rfl⟩
  · decide
  · decide

theorem orderly_contended : contended.orderly := by
  intro k
  cases k
  · exact ⟨List.nodup_nil, fun _ h => (by cases h), fun _ => rfl⟩
  · exact ⟨by decide, by decide, by decide⟩

/-- A bus that the cleared port holds passes to the port that waits; a measurement on it ends with STOPPED. -/
theorem test_PortClearDiscardsPortsThings_handOver :
    (busRecord contended .bus1).holder = some .tst ∧ contended.pairsGood ∧ (busRecord contended .bus1).coherent
    ∧ (∀ j, j ≠ .bus1 → (busRecord contended j).holder ≠ some .tst)
    ∧ busRecord (after (.portClear .tst) (alone contended)) .bus1 = ⟨.held, some .sup, [], none, none, some 120000, none⟩
    ∧ (resultOf (after (.portClear .tst) (alone measuring)) .bus1).error = some .stopped
    ∧ (busRecord (after (.portClear .tst) (alone measuring)) .bus1).holder = none := by
  refine ⟨rfl, pairsGood_reset, coherent_records.2.2.2.1, fun j => ?_, ?_⟩
  · cases j <;> decide +kernel
  · decide +kernel

/-- Port SUP with UNCORRECTABLE pending in group 0. -/
def alarmed : Hw := setEventsOf .sup { EventPort.reset with pending := EventPort.reset.pending.set 0 2 } Hw.reset

/-- The latches empty and full, no group and group 0 pending; groups 0, 7 (disabled) and 8 named in a clear. -/
theorem test_EventsAreTakenAndCleared :
    (portOf (after (.takeEvent .sup) (alone alarmed)) .sup).takeLatch = some 2
    ∧ (portOf (after (.takeEvent .sup) State.reset) .sup).dataOut = 0xFF
    ∧ (∀ j : Fin 8, (eventsOf alarmed .sup).enable[j] = true → (eventsOf alarmed .sup).pending[j] ≠ 0 →
        (eventsOf alarmed .sup).level[(0 : Fin 8)] < (eventsOf alarmed .sup).level[j]
        ∨ ((eventsOf alarmed .sup).level[(0 : Fin 8)] = (eventsOf alarmed .sup).level[j] ∧ (0 : Fin 8) ≤ j))
    ∧ (eventsOf (after (.clearEvent .sup 3) (alone (setPort .sup { PortUnit.reset with clearLatch := some 0 } alarmed)))
        .sup).pending[(0 : Fin 8)] = 0
    ∧ (eventsOf Hw.reset .sup).enable[(7 : Fin 8)] = false
    ∧ (portOf (after (.clearEvent .sup 3) (alone (setPort .sup { PortUnit.reset with clearLatch := some 8 } alarmed)))
        .sup).clearLatch = none := by decide +kernel

theorem test_NoticeReadTakesOldestEntry :
    (portOf (after (.noticeRead .tst) State.reset) .tst).dataOut = 0
    ∧ (after (.noticeRead .tst) State.reset).pairTable.notices.get .tst = [1, 2, 3] := by decide +kernel

/-- Pair 23 joins the end at every port, and pair 3 keeps its place; NOTICE is set at the join where group 7 is enabled. A
poisoned record changes without a step. -/
theorem test_PostingsSetFlagsAndJoinNotices :
    (postNotice 23 (listening Hw.reset)).pairTable.notices = ⟨[0, 1, 2, 3, 23], [0, 1, 2, 3, 23], [0, 1, 2, 3, 23]⟩
    ∧ (postNotice 3 (listening Hw.reset)).pairTable.notices = Hw.reset.pairTable.notices
    ∧ (listening Hw.reset).flag .sup 7 0 = false ∧ (postNotice 23 (listening Hw.reset)).flag .sup 7 0 = true
    ∧ (postNotice 3 (listening Hw.reset)).flag .sup 7 0 = false ∧ (postNotice 23 (listening Hw.reset)).flag .tst 7 0 = false
    ∧ (storedPair (stepRecord 23 Hw.reset) 23).first.val.version = 1
    ∧ (storedPair (stepRecord 23 (poisonedAt 23 Hw.reset)) 23).first.val.version = 0 := by decide +kernel

/-- Group 0 disabled or given level 1 is RANGE; group 7 is enabled at level 7, and starts with NOTICE. -/
theorem test_SetEventsAndSetMaskConfigurePort_events :
    Waits (passes .tst .setEvents [7, 1, 7] Hw.reset) .tst .setEvents [7, 1, 7] ∧ Hw.reset.integ.faultHold = false
    ∧ faulted.integ.faultHold = true
    ∧ reply (.setEvents .tst [7, 1, 7]) .setEvents .tst [7, 1, 7] Hw.reset = [0x60, 0, 4, 1, 7, 1, 1]
    ∧ reply (.setEvents .tst [0, 0]) .setEvents .tst [0, 0] Hw.reset = [0x60, 5, 0]
    ∧ reply (.setEvents .tst [0, 1, 1]) .setEvents .tst [0, 1, 1] Hw.reset = [0x60, 5, 0]
    ∧ reply (.setEvents .tst [8]) .setEvents .tst [8] Hw.reset = [0x60, 5, 0]
    ∧ reply (.setEvents .tst [0, 1, 0]) .setEvents .tst [0, 1, 0] Hw.reset = [0x60, 0, 4, 1, 0, 0, 0]
    ∧ reply (.setEvents .tst []) .setEvents .tst [] faulted = [0x60, 15, 0] := by
  refine ⟨waits_passes _ _ _ _ rfl, ?_⟩
  decide +kernel

theorem test_SetEventsAndSetMaskConfigurePort_mask :
    Waits (passes .sup .setMask [8] alarmed) .sup .setMask [8]
    ∧ reply (.setMask .sup [8]) .setMask .sup [8] alarmed = [0x61, 0, 2, 8, 1]
    ∧ reply (.setMask .sup [0]) .setMask .sup [0] alarmed = [0x61, 0, 2, 0, 0]
    ∧ reply (.setMask .sup [9]) .setMask .sup [9] alarmed = [0x61, 5, 0]
    ∧ reply (.setMask .sup []) .setMask .sup [] alarmed = [0x61, 4, 0]
    ∧ reply (.setMask .sup [9]) .setMask .sup [9] faulted = [0x61, 15, 0] := by
  refine ⟨waits_passes _ _ _ _ rfl, ?_⟩
  decide +kernel

theorem test_FaultHoldEndsTrafficAndAbortsEndWork :
    Instr.passing (.stop .tst [0]) = some (.stop, .tst, [0]) ∧ Cmd.stop ∈ refusedInFaultHold
    ∧ Waits (passes .tst .stop [0] faulted) .tst .stop [0] ∧ (passes .tst .stop [0] faulted).hw.integ.faultHold = true
    ∧ reply (.stop .tst [0]) .stop .tst [0] faulted = [0x33, 15, 0] := by
  refine ⟨by decide, by decide, waits_passes _ _ _ _ rfl, by decide, by decide +kernel⟩

/-- The aborts on a bus that measures, that selects, and that is READY; and on one that is HELD. -/
theorem test_FaultHoldEndsTrafficAndAbortsEndWork_aborts :
    atWork measuring .bus1 ∧ atWork selecting .bus1 ∧ ¬ atWork ready .bus1
    ∧ busRecord (takeRequest .faultAbort measuring) .bus1 = .reset
    ∧ (resultOf (takeRequest .faultAbort measuring) .bus1).error = some .fault
    ∧ (busRecord (powerAbort measuring) .bus1).state = .held
    ∧ (resultOf (powerAbort measuring) .bus1).verdict = .error
    ∧ (busRecord (powerAbort ready) .bus1).state = .held ∧ resultOf (powerAbort ready) .bus1 = .cleared
    ∧ busRecord (powerAbort contended) .bus1 = busRecord contended .bus1
    ∧ (busRecord (takeRequest (.poisonAbort 23) measuring) .bus1).state = .ready
    ∧ (resultOf (takeRequest (.poisonAbort 23) measuring) .bus1).error = some .poisoned
    ∧ takeRequest (.poisonAbort 22) measuring = measuring ∧ takeRequest (.poisonAbort 23) selecting = selecting
    ∧ (busRecord (surgeAbort 23 selecting) .bus1).state = .held
    ∧ (resultOf (surgeAbort 23 selecting) .bus1).error = some .surge
    ∧ (resultOf (surgeAbort 23 selecting) .bus1).verdict = .none ∧ surgeAbort 22 selecting = selecting := by
  refine ⟨.inr ⟨rfl, .inl (by decide +kernel)⟩, .inl rfl, ?_, ?_⟩
  · unfold atWork; decide +kernel
  · decide +kernel

/-- With no bus BUSY: the pair taken off changes once, and its return move waits. A MEASURE cut short writes its summary. -/
theorem test_FaultHoldEndsTrafficAndAbortsEndWork_returns :
    selecting.relay.queueGood ∧ (∀ j, (busRecord selecting j).state ≠ .busy)
    ∧ (∀ n, (busRecord selecting .bus0).pair = some n → (busRecord selecting .bus1).pair ≠ some n)
    ∧ (busRecord selecting .bus1).coherent ∧ (busRecord selecting .bus0).coherent
    ∧ (takeRequest .faultAbort selecting).relay.asked 23 .through .testBus
    ∧ selecting.recordsStepped (takeRequest .faultAbort selecting) (fun n => (busOf selecting n).isSome)
    ∧ selecting.recordsStepped (powerAbort selecting) (fun n => (busOf selecting n).isSome)
    ∧ selecting.recordsStepped (surgeAbort 23 selecting) (fun m => m == 23)
    ∧ (storedPair (powerAbort selecting) 23).first.val.version = 1
    ∧ (resultOf measuring .bus0).pair ≠ (resultOf measuring .bus1).pair ∧ measuring.undamaged 23
    ∧ (storedPair (powerAbort measuring) 23).second = ⟨⟨.error, none⟩, .none⟩
    ∧ (storedPair (powerAbort measuring) 23).first.val.version = 2 := by
  refine ⟨queueGood_reset, fun j => ?_, by decide +kernel, coherent_records.2.1, coherent_records.2.2.2.2.1, ?_⟩
  · cases j <;> decide +kernel
  · unfold Relay.asked Hw.recordsStepped Hw.recordAfter Hw.undamaged
    decide +kernel

/-! ### The pair table -/

theorem test_PairReadsAnswerTheView :
    Waits (passes .tst .readPair [23] Hw.reset) .tst .readPair [23]
    ∧ Waits (passes .tst .nextNotice [] Hw.reset) .tst .nextNotice []
    ∧ Hw.reset.undamaged 23 ∧ isPoisoned (poisonedAt 23 Hw.reset) 23 = true
    ∧ reply (.readPair .tst [23]) .readPair .tst [23] Hw.reset
        = [1, 0, 20, 23, 0, 0, 0, 3, 1, 0x80, 0, 0, 0xFF, 0, 0, 0, 0, 0, 0xFF, 0, 0, 0, 0]
    ∧ reply (.nextNotice .tst []) .nextNotice .tst [] Hw.reset
        = [2, 0, 20, 0, 0, 1, 0, 3, 1, 0x88, 0x10, 0, 0xFF, 0, 0, 0, 0, 0, 0xFF, 0, 0, 0, 0]
    ∧ reply (.readPair .tst [24]) .readPair .tst [24] Hw.reset = [1, 5, 0]
    ∧ reply (.nextNotice .tst []) .nextNotice .tst [] { Hw.reset with pairTable := .blank } = [2, 0, 1, 0xFF] := by
  refine ⟨waits_passes _ _ _ _ rfl, waits_passes _ _ _ _ rfl, by unfold Hw.undamaged; decide, ?_⟩
  decide +kernel

/-- Counts 0, 1 and 4; the pair 24, the service 3, the weights 0 and 16, the tier 4; a poisoned record, one whose first
word is found damaged, and a version that differs. -/
theorem test_ProvisionAndSetTierRefusals :
    Waits (passes .trk .provision [23, 2, 15, 0, 1] Hw.reset) .trk .provision [23, 2, 15, 0, 1]
    ∧ expected [23, 2, 15, 0, 1] 3 = some 1 ∧ (storedPair Hw.reset 23).first.val.version = 0
    ∧ isPoisoned (checkPairWord 23 0 (upsetWord 69 (.double 0 0) Hw.reset)) 23 = true
    ∧ reply (.provision .trk []) .provision .trk [] Hw.reset = [3, 4, 0]
    ∧ reply (.provision .trk [23, 2, 15, 0]) .provision .trk [23, 2, 15, 0] Hw.reset = [3, 4, 0]
    ∧ reply (.provision .trk [24]) .provision .trk [24] Hw.reset = [3, 5, 0]
    ∧ reply (.provision .trk [23, 3]) .provision .trk [23, 3] Hw.reset = [3, 5, 0]
    ∧ reply (.provision .trk [23, 2, 0]) .provision .trk [23, 2, 0] Hw.reset = [3, 5, 0]
    ∧ reply (.provision .trk [23, 2, 16]) .provision .trk [23, 2, 16] Hw.reset = [3, 5, 0]
    ∧ reply (.provision .trk [23]) .provision .trk [23] (poisonedAt 23 Hw.reset) = [3, 14, 0]
    ∧ reply (.provision .trk [23]) .provision .trk [23] (upsetWord 69 (.double 0 0) Hw.reset) = [3, 14, 0]
    ∧ reply (.provision .trk [23, 2, 15, 0, 1]) .provision .trk [23, 2, 15, 0, 1] Hw.reset = [3, 6, 2, 0, 0]
    ∧ reply (.setTier .sup [23, 3, 0]) .setTier .sup [23, 3, 0] Hw.reset = [4, 4, 0]
    ∧ reply (.setTier .sup [23, 4]) .setTier .sup [23, 4] Hw.reset = [4, 5, 0]
    ∧ reply (.setTier .sup [23, 3, 0, 1]) .setTier .sup [23, 3, 0, 1] Hw.reset = [4, 6, 2, 0, 0] := by
  refine ⟨waits_passes _ _ _ _ rfl, ?_⟩
  decide +kernel

/-- A first word found damaged: the pair is poisoned in the event of the command. -/
theorem test_ProvisionAndSetTierRefusals_poisoned :
    isPoisoned (upsetWord 69 (.double 0 0) Hw.reset) 23 = false
    ∧ isPoisoned (after (.provision .trk [23]) (passes .trk .provision [23] (upsetWord 69 (.double 0 0) Hw.reset))) 23 = true
    ∧ (after (.setTier .sup [23, 1]) (passes .sup .setTier [23, 1] (upsetWord 69 (.double 0 0) Hw.reset))).pairTable.notices
        = ⟨[0, 1, 2, 3, 23], [0, 1, 2, 3, 23], [0, 1, 2, 3, 23]⟩
    ∧ ((after (.setTier .sup [23, 1]) (passes .sup .setTier [23, 1] (upsetWord 69 (.double 0 0) Hw.reset))).power.pairs[23]).frozen
        = true := by decide +kernel

/-- Nothing altered, the weight alone, and the service; the version wraps. -/
theorem test_ProvisionApplies :
    Waits (passes .trk .provision [23, 1, 15, 0, 0] Hw.reset) .trk .provision [23, 1, 15, 0, 0]
    ∧ checkPairWord 23 0 Hw.reset = Hw.reset ∧ isPoisoned Hw.reset 23 = false ∧ expected [23, 1, 15, 0, 0] 3 = some 0
    ∧ reply (.provision .trk [23, 0, 1]) .provision .trk [23, 0, 1] Hw.reset = [3, 0, 2, 0, 0]
    ∧ reply (.provision .trk [23, 0, 15]) .provision .trk [23, 0, 15] Hw.reset = [3, 0, 2, 0, 1]
    ∧ reply (.provision .trk [23, 1, 15, 0, 0]) .provision .trk [23, 1, 15, 0, 0] Hw.reset = [3, 0, 2, 0, 1]
    ∧ (storedPair (after (.provision .trk [23, 1, 15]) (passes .trk .provision [23, 1, 15] Hw.reset)) 23).first
        = ⟨⟨.active, 3, 15, 1⟩, .none⟩ := by
  refine ⟨waits_passes _ _ _ _ rfl, ?_⟩
  decide +kernel

theorem test_SetTierApplies :
    Waits (passes .sup .setTier [23, 0, 0, 0] Hw.reset) .sup .setTier [23, 0, 0, 0]
    ∧ checkPairWord 23 0 Hw.reset = Hw.reset ∧ isPoisoned Hw.reset 23 = false
    ∧ reply (.setTier .sup [23, 3]) .setTier .sup [23, 3] Hw.reset = [4, 0, 2, 0, 0]
    ∧ reply (.setTier .sup [23, 0, 0, 0]) .setTier .sup [23, 0, 0, 0] (serving 23 1 1 Hw.reset) = [4, 0, 2, 0, 1]
    ∧ ((after (.setTier .sup [23, 0]) (passes .sup .setTier [23, 0] (serving 23 1 1 Hw.reset))).power.pairs[23]).tier
        = 0 := by
  refine ⟨waits_passes _ _ _ _ rfl, ?_⟩
  decide +kernel

theorem test_RebuildPairRewritesStoredPart :
    Waits (passes .sup .rebuildPair [23, 2, 3, 15] (poisonedAt 23 Hw.reset)) .sup .rebuildPair [23, 2, 3, 15]
    ∧ reply (.rebuildPair .sup [23, 2, 3, 15]) .rebuildPair .sup [23, 2, 3, 15] (poisonedAt 23 Hw.reset)
        = [5, 0, 2, 0, 0]
    ∧ isPoisoned (after (.rebuildPair .sup [23, 2, 3, 15])
        (passes .sup .rebuildPair [23, 2, 3, 15] (poisonedAt 23 Hw.reset))) 23 = false
    ∧ (takeRequests requestFuel (checkPair 23 (upsetWord 71 (.double 0 0) Hw.reset))).integ.pending = some ⟨71, 0⟩
    ∧ (after (.rebuildPair .sup [23, 2, 3, 15]) (passes .sup .rebuildPair [23, 2, 3, 15]
        (upsetWord 71 (.double 0 0) Hw.reset))).integ.pending = some ⟨71, 0⟩
    ∧ isPoisoned (after (.rebuildPair .sup [23, 2, 3, 15]) (passes .sup .rebuildPair [23, 2, 3, 15]
        (upsetWord 71 (.double 0 0) Hw.reset))) 23 = false
    ∧ (after (.rebuildPair .sup [23, 2, 3, 15]) (passes .sup .rebuildPair [23, 2, 3, 15]
        (upsetWord 69 (.single 0) Hw.reset))).integ.corrections = 1
    ∧ reply (.rebuildPair .sup [23, 2, 3]) .rebuildPair .sup [23, 2, 3] Hw.reset = [5, 4, 0]
    ∧ reply (.rebuildPair .sup [23, 2, 3, 0]) .rebuildPair .sup [23, 2, 3, 0] Hw.reset = [5, 5, 0] := by
  refine ⟨waits_passes _ _ _ _ rfl, ?_⟩
  decide +kernel

/-- Pair 0 is in service, and its upstream queue, of one cell, is congested. -/
def pressed (floor : Nat) : Hw :=
  let h := serving 0 1 1 (holding (upq 0) false Hw.reset)
  { h with
    store := { h.store with congested := h.store.congested.set (upq 0) true }
    power := { h.power with floor } }

theorem flushable_pressed (floor : Nat) : (pressed floor).store.flushable 0 := by
  refine ⟨rfl, [0], [], 0, 0, ⟨⟨rfl, rfl, rfl⟩, rfl, by decide, fun c hc => ?_, by decide, ⟨rfl, rfl, none, rfl, rfl⟩, rfl, rfl,
    rfl, rfl⟩, ⟨⟨rfl, rfl, rfl⟩, rfl, List.nodup_nil, fun _ h => (by cases h), Nat.le_refl 0, rfl, rfl, rfl, rfl, rfl⟩,
    fun c _ h => (by cases h)⟩
  rw [List.mem_singleton] at hc
  subst hc
  exact ⟨rfl, fun h => by cases h⟩

/-- DISABLED ends line power and the flush ends congested: three steps; SUSPENDED keeps line power: two. -/
theorem test_ProvisionApplies_version :
    (pressed 4).store.flushable 0
    ∧ storedPair (after (.provision .trk [0, 0]) (passes .trk .provision [0, 0] (pressed 4))) 0
        = ⟨⟨⟨.disabled, 1, 1, 3⟩, .none⟩, ⟨⟨.none, none⟩, .none⟩, ⟨0, .none⟩⟩
    ∧ consequentSteps (pressed 4) (after (.provision .trk [0, 0]) (passes .trk .provision [0, 0] (pressed 4))) 0 = 2
    ∧ storedPair (after (.provision .trk [0, 2]) (passes .trk .provision [0, 2] (pressed 4))) 0
        = ⟨⟨⟨.suspended, 1, 1, 2⟩, .none⟩, ⟨⟨.none, none⟩, .none⟩, ⟨0, .none⟩⟩ := by
  refine ⟨flushable_pressed 4, ?_⟩
  decide +kernel

/-- A tier that sheds the pair: the tier, its power and congested are three steps; one that does not is one. -/
theorem test_SetTierApplies_version :
    (pressed 2).store.flushable 0
    ∧ storedPair (after (.setTier .sup [0, 2]) (passes .sup .setTier [0, 2] (pressed 2))) 0
        = ⟨⟨⟨.active, 2, 1, 3⟩, .none⟩, ⟨⟨.none, none⟩, .none⟩, ⟨0, .none⟩⟩
    ∧ storedPair (after (.setTier .sup [0, 0]) (passes .sup .setTier [0, 0] (pressed 2))) 0
        = ⟨⟨⟨.active, 0, 1, 1⟩, .none⟩, ⟨⟨.none, none⟩, .none⟩, ⟨0, .none⟩⟩ := by
  refine ⟨flushable_pressed 2, ?_⟩
  decide +kernel

/-- What a command has left of the two queues of pair 0, of the cell that stood there, and of the free count. -/
def flushedCell (h : Hw) : Nat × Nat × Protected Owner × Nat :=
  (h.store.descriptors[upq 0].fields.count, h.store.descriptors[dnq 0].fields.count, h.store.owner 0, h.store.freeCount)

/-- Queue eligibility ended by a service, by a tier, and by a rebuild of either; and kept, the cell store left alone. -/
theorem test_ProvisionApplies_shed :
    queueEligible (pressed 2) 0 = true
    ∧ flushedCell (after (.provision .trk [0, 2]) (passes .trk .provision [0, 2] (pressed 2))) = (0, 0, ⟨.free 0, .none⟩, 2048)
    ∧ flushedCell (after (.setTier .sup [0, 2]) (passes .sup .setTier [0, 2] (pressed 2))) = (0, 0, ⟨.free 0, .none⟩, 2048)
    ∧ flushedCell (after (.rebuildPair .sup [0, 0, 1, 9]) (passes .sup .rebuildPair [0, 0, 1, 9] (pressed 2)))
        = (0, 0, ⟨.free 0, .none⟩, 2048)
    ∧ flushedCell (after (.rebuildPair .sup [0, 1, 2, 9]) (passes .sup .rebuildPair [0, 1, 2, 9] (pressed 2)))
        = (0, 0, ⟨.free 0, .none⟩, 2048)
    ∧ queueEligible (after (.setTier .sup [0, 0]) (passes .sup .setTier [0, 0] (pressed 2))) 0 = true
    ∧ (after (.setTier .sup [0, 0]) (passes .sup .setTier [0, 0] (pressed 2))).store = (pressed 2).store
    ∧ (after (.rebuildPair .sup [0, 1, 0, 9]) (passes .sup .rebuildPair [0, 1, 0, 9] (pressed 2))).store = (pressed 2).store := by
  decide +kernel

/-- From version 0: none, and one each for line power and congested. -/
theorem test_RebuildPairRewritesStoredPart_version :
    (pressed 4).undamaged 0 ∧ (pressed 4).store.flushable 0
    ∧ storedPair (after (.rebuildPair .sup [0, 1, 1, 9]) (passes .sup .rebuildPair [0, 1, 1, 9] (pressed 4))) 0
        = ⟨⟨⟨.active, 1, 9, 0⟩, .none⟩, ⟨⟨.none, none⟩, .none⟩, ⟨0, .none⟩⟩
    ∧ storedPair (after (.rebuildPair .sup [0, 0, 1, 9]) (passes .sup .rebuildPair [0, 0, 1, 9] (pressed 4))) 0
        = ⟨⟨⟨.disabled, 1, 9, 2⟩, .none⟩, ⟨⟨.none, none⟩, .none⟩, ⟨0, .none⟩⟩ := by
  refine ⟨by unfold Hw.undamaged; decide +kernel, flushable_pressed 4, ?_⟩
  decide +kernel

/-! ### The cell store -/

theorem queueIs_reset (q : QueueIx) : Hw.reset.store.queueIs q [] 0 := by
  have hd : Hw.reset.store.descriptors[q] = .reset := by simp [Hw.reset, Store.reset]
  have hg : Hw.reset.store.generations[q] = .fresh 0 := by simp [Hw.reset, Store.reset]
  unfold Store.queueIs Store.descriptorGood
  rw [hd, hg]
  exact ⟨⟨rfl, rfl, rfl⟩, rfl, List.nodup_nil, fun _ h => (by cases h), Nat.le_refl 0, rfl, rfl, rfl, rfl, rfl⟩

/-- Queue UPQ[0] with the one urgent cell 0, and DNQ[23] with the one ordinary cell 0. -/
theorem queueIs_holding :
    (holding (upq 0) true Hw.reset).store.queueIs (upq 0) [0] 1
    ∧ (holding (upq 0) false Hw.reset).store.queueIs (upq 0) [0] 0
    ∧ (holding (dnq 23) false Hw.reset).store.queueIs (dnq 23) [0] 0 := by
  refine ⟨⟨⟨rfl, rfl, rfl⟩, rfl, by decide, fun c hc => ?_, by decide, ⟨rfl, rfl, none, rfl, rfl⟩, rfl, rfl, rfl, rfl⟩,
    ⟨⟨rfl, rfl, rfl⟩, rfl, by decide, fun c hc => ?_, by decide, ⟨rfl, rfl, none, rfl, rfl⟩, rfl, rfl, rfl, rfl⟩,
    ⟨⟨rfl, rfl, rfl⟩, rfl, by decide, fun c hc => ?_, by decide, ⟨rfl, rfl, none, rfl, rfl⟩, rfl, rfl, rfl, rfl⟩⟩
  all_goals
    rw [List.mem_singleton] at hc
    subst hc
    unfold Store.usable
    decide

/-- Queue q holds cell 0 alone, urgent or not, with a limit of its own. -/
def limited (q : QueueIx) (limit : Nat) (urgent : Bool) (h : Hw) : Hw :=
  let h := holding q urgent h
  { h with store := { h.store with
      descriptors := h.store.descriptors.set q (.fresh ⟨some 0, some 0, 1, limit, 48, if urgent then 1 else 0,
        if urgent then some 0 else none⟩) } }

/-- An empty queue and one of one cell; a cell of the free list joins at either place. -/
theorem test_QueueOperationsKeepOrder :
    Hw.reset.store.queueIs 47 [] 0 ∧ (holding (upq 0) true Hw.reset).store.queueIs (upq 0) [0] 1
    ∧ (2047 : CellIx) ∉ ([0] : List CellIx) ∧ Hw.reset.store.usable 2047
    ∧ (holding (upq 0) true Hw.reset).store.holds.get .trunkTx = none
    ∧ ((storeRun (holding (upq 0) true Hw.reset)).append (upq 0) 2047 64).store.descriptors[(0 : QueueIx)].fields
        = ⟨some 0, some 2047, 2, 64, 48, 1, some 0⟩
    ∧ ((storeRun (holding (upq 0) false Hw.reset)).lead (upq 0) 2047 64).store.descriptors[(0 : QueueIx)].fields
        = ⟨some 2047, some 0, 2, 64, 48, 1, some 2047⟩
    ∧ ((storeRun (holding (upq 0) true Hw.reset)).take (upq 0) .trunkTx false).1 = some ⟨0, true, 10⟩ := by
  refine ⟨queueIs_reset 47, queueIs_holding.1, by decide, by unfold Store.usable; decide, by decide, ?_⟩
  decide +kernel

/-- A TAKE keeps limit and high mark; of an empty queue, into an occupied hold, and in FAULT HOLD it changes nothing. -/
theorem test_QueueOperationsKeepOrder_take :
    ((storeRun (limited (upq 0) 7 true Hw.reset)).take (upq 0) .trunkTx false).2.store.descriptors[(0 : QueueIx)].fields
        = ⟨none, none, 0, 7, 48, 0, none⟩
    ∧ (storeRun Hw.reset).take 47 .trunkTx false = (none, storeRun Hw.reset)
    ∧ (storeRun (occupied (holding (upq 0) true Hw.reset))).take (upq 0) .trunkTx false
        = (none, storeRun (occupied (holding (upq 0) true Hw.reset)))
    ∧ (storeRun (holding (upq 0) true Hw.reset)).take (upq 0) .trunkTx true
        = (none, storeRun (holding (upq 0) true Hw.reset)) := by decide +kernel

/-- UPQ[0] with the one cell 0, a limit and a high mark, while cell 2047 is held. -/
def crowded (limit high : Nat) (urgent : Bool) : Hw :=
  let h := holding (upq 0) urgent Hw.reset
  { h with store := { h.store with
      descriptors := h.store.descriptors.set (upq 0) (.fresh ⟨some 0, some 0, 1, limit, high, if urgent then 1 else 0,
        if urgent then some 0 else none⟩)
      holds := { h.store.holds with lineIn := some 2047 } } }

theorem queueIs_crowded (limit high : Nat) :
    (crowded limit high false).store.queueIs (upq 0) [0] 0 ∧ (crowded limit high true).store.queueIs (upq 0) [0] 1 := by
  refine ⟨⟨⟨rfl, rfl, rfl⟩, rfl, by decide, fun c hc => ?_, by decide, ⟨rfl, rfl, none, rfl, rfl⟩, rfl, rfl, rfl, rfl⟩,
    ⟨⟨rfl, rfl, rfl⟩, rfl, by decide, fun c hc => ?_, by decide, ⟨rfl, rfl, none, rfl, rfl⟩, rfl, rfl, rfl, rfl⟩⟩
  all_goals
    rw [List.mem_singleton] at hc
    subst hc
    exact ⟨rfl, fun h => by cases h⟩

/-- The congested flag at high marks 2 and 3 after an APPEND to one cell, and at high mark 1 after a TAKE of the last. -/
theorem test_QueueOperationsKeepOrder_congested :
    (crowded 64 2 false).store.congestedAt (upq 0) 2 = true ∧ (crowded 64 3 false).store.congestedAt (upq 0) 2 = false
    ∧ ((storeRun (crowded 64 2 false)).append (upq 0) 2047 64).out = [.congested (upq 0)]
    ∧ ((storeRun (crowded 64 3 false)).append (upq 0) 2047 64).out = []
    ∧ ((storeRun { crowded 64 1 false with store := { (crowded 64 1 false).store with
        congested := (crowded 64 1 false).store.congested.set (upq 0) true } }).take (upq 0) .trunkTx false).2.out
        = [.congested (upq 0)] := by decide +kernel

/-- A queue at its limit of 1 and above a limit of 0, its one cell ordinary or urgent; an empty free list; a cell retired
by an uncorrectable owner word and by its value, freed, popped and taken. -/
theorem test_UrgentCellsDisplaceAndRetiredCellsLeave :
    (crowded 1 48 false).store.queueIs (upq 0) [0] 0 ∧ (crowded 0 48 false).store.queueIs (upq 0) [0] 0
    ∧ (crowded 1 48 true).store.queueIs (upq 0) [0] 1 ∧ (crowded 1 48 false).store.usable 2047
    ∧ (crowded 1 48 false).store.freeGeneration.upset = .none ∧ (crowded 1 48 false).store.holds.get .lineIn = some 2047
    ∧ (2047 : CellIx) ∉ ([0] : List CellIx) ∧ (crowded 1 48 false).store.descriptors[upq 0].fields.limit ≤ [(0 : CellIx)].length
    ∧ ((storeRun (crowded 1 48 false)).admitOffer (upq 0) true 7 .lineIn false true).store.descriptors[upq 0].fields
        = ⟨some 2047, some 2047, 1, 1, 48, 1, some 2047⟩
    ∧ ((storeRun (crowded 1 48 false)).admitOffer (upq 0) true 7 .lineIn false true).store.freeHead = some 0
    ∧ ((storeRun (crowded 0 48 false)).admitOffer (upq 0) true 7 .lineIn false true).store.freeHead = some 2047
    ∧ ((storeRun (crowded 0 48 false)).admitOffer (upq 0) true 7 .lineIn false true).store.freeCount = 2049
    ∧ ((storeRun (crowded 1 48 true)).admitOffer (upq 0) true 7 .lineIn false true).store.freeHead = some 2047
    ∧ ((storeRun { holding (upq 0) false Hw.reset with store := { (holding (upq 0) false Hw.reset).store with
        freeHead := none, freeCount := 0 } }).allocate true (upq 0) .lineIn false).1 = some 0
    ∧ (upsetWord 265 (.double 0 0) Hw.reset).store.isRetired 0
    ∧ ((storeRun (upsetWord 265 (.double 0 0) Hw.reset)).freeCell 0).2.out = [.uncorrectable 265, .event .retired]
    ∧ (storeRun (upsetWord 265 (.double 0 0) Hw.reset)).pop.2.store.retired = [0]
    ∧ ({ Hw.reset.store with owners := [(0, ⟨.retired, .none⟩)] } : Store).isRetired 0
    ∧ (StoreRun.pop ⟨{ Hw.reset.store with owners := [(0, ⟨.retired, .none⟩)] }, []⟩).2.store.freeHead = some 1
    ∧ (storeRun (upsetWord 265 (.double 0 0) (holding (upq 0) true Hw.reset))).store.descriptorGood (upq 0)
    ∧ ((storeRun (upsetWord 265 (.double 0 0) (holding (upq 0) true Hw.reset))).take (upq 0) .trunkTx false).1
        = some ⟨0, true, 10⟩ := by
  refine ⟨(queueIs_crowded 1 48).1, (queueIs_crowded 0 48).1, (queueIs_crowded 1 48).2, ⟨rfl, fun h => by cases h⟩, rfl, rfl,
    by decide, by decide, ?_⟩
  unfold Store.isRetired Store.descriptorGood
  decide +kernel

/-- The report of an owner word that cannot be read, of a cell popped and taken; one upset bit in a RETIRED owner word. -/
theorem test_UrgentCellsDisplaceAndRetiredCellsLeave_reports :
    ((storeRun (upsetWord 265 (.double 0 0) Hw.reset)).pop).2.out = [.uncorrectable 265, .event .retired]
    ∧ ((storeRun (upsetWord 265 (.double 0 0) Hw.reset)).freeCell 0).2.out = [.uncorrectable 265, .event .retired]
    ∧ ((storeRun (upsetWord 265 (.double 0 0) (holding (upq 0) true Hw.reset))).take (upq 0) .trunkTx false).2.out
        = [.uncorrectable 265, .event .retired]
    ∧ ({ Hw.reset.store with owners := [(0, ⟨.retired, .single 5⟩)] } : Store).isRetired 0
    ∧ ((⟨{ Hw.reset.store with owners := [(0, ⟨.retired, .single 5⟩)] }, []⟩ : StoreRun).pop).2.store.retired = [0] := by
  unfold Store.isRetired
  decide +kernel

/-- TRIM of a queue whose one cell is ordinary, and of one whose one cell is urgent; FLUSH; a descriptor found damaged. -/
theorem test_TrimFlushAndBreakEmptyQueues :
    (holding (upq 0) false Hw.reset).store.queueIs (upq 0) [0] 0
    ∧ (holding (upq 0) true Hw.reset).store.queueIs (upq 0) [0] 1
    ∧ (holding (upq 0) true Hw.reset).store.freeGeneration.upset = .none
    ∧ ((storeRun (holding (upq 0) false Hw.reset)).trim (upq 0)).store.freeHead = some 0
    ∧ ((storeRun (holding (upq 0) true Hw.reset)).trim (upq 0)).store.freeHead = some 1
    ∧ ((storeRun (holding (upq 0) true Hw.reset)).flush (upq 0)).1 = 1
    ∧ (upsetWord 215 (.double 31 0) Hw.reset).store.descriptors[(47 : QueueIx)].upset2.outcome = .uncorrectable
    ∧ ((storeRun (upsetWord 215 (.double 31 0) Hw.reset)).openQueue 47).2.store.generations[(47 : QueueIx)] = .fresh 1
    ∧ (upsetWord 263 (.double 31 0) Hw.reset).store.generations[(47 : QueueIx)].upset.outcome = .uncorrectable := by
  refine ⟨queueIs_holding.2.1, queueIs_holding.1, ?_⟩
  decide +kernel

/-- A TRIM of one urgent cell and a FLUSH of no cell change nothing; after a TRIM and a FLUSH the flag is evaluated. -/
theorem test_TrimFlushAndBreakEmptyQueues_same :
    (storeRun (holding (upq 0) true Hw.reset)).trim (upq 0) = storeRun (holding (upq 0) true Hw.reset)
    ∧ (storeRun Hw.reset).flush 47 = (0, storeRun Hw.reset)
    ∧ ((storeRun congestedQueue).trim (upq 0)).store.congested[upq 0] = false
    ∧ (congestedQueue.store.congestedAt (upq 0) 0) = false
    ∧ ((storeRun congestedQueue).flush (upq 0)).2.store.congested[upq 0] = false := by decide +kernel

/-- Limits 0 and 511, high marks 1 and 511; their neighbours outside the ranges. -/
theorem test_QueueCommandsReadAndSetDescriptor :
    Waits (passes .tst .readQueue [23, 1] Hw.reset) .tst .readQueue [23, 1]
    ∧ Waits (passes .trk .setQueueLimits [23, 1, 1, 255, 0, 1] Hw.reset) .trk .setQueueLimits [23, 1, 1, 255, 0, 1]
    ∧ Hw.reset.store.descriptorGood 47 ∧ expected [23, 1, 1, 255, 0, 1] 2 = some 511
    ∧ expected [23, 1, 1, 255, 0, 1] 4 = some 1
    ∧ reply (.readQueue .tst [23, 1]) .readQueue .tst [23, 1] (holding (dnq 23) false Hw.reset)
        = [0x10, 0, 13, 0, 0, 0, 0, 0, 1, 0, 0, 0, 64, 0, 48, 0]
    ∧ reply (.readQueue .tst [23, 2]) .readQueue .tst [23, 2] Hw.reset = [0x10, 5, 0]
    ∧ reply (.setQueueLimits .trk [23, 1, 1, 255, 0, 1]) .setQueueLimits .trk [23, 1, 1, 255, 0, 1] Hw.reset
        = [0x11, 0, 6, 1, 255, 0, 1, 0, 0]
    ∧ reply (.setQueueLimits .trk [23, 1, 2, 0]) .setQueueLimits .trk [23, 1, 2, 0] Hw.reset = [0x11, 5, 0]
    ∧ reply (.setQueueLimits .trk [23, 1, 0, 0, 0, 0]) .setQueueLimits .trk [23, 1, 0, 0, 0, 0] Hw.reset = [0x11, 5, 0]
    ∧ reply (.setQueueLimits .trk [23, 1, 0]) .setQueueLimits .trk [23, 1, 0] Hw.reset = [0x11, 4, 0]
    ∧ (after (.setQueueLimits .trk [0, 0, 0, 64, 0, 1])
        (passes .trk .setQueueLimits [0, 0, 0, 64, 0, 1] (holding (upq 0) false Hw.reset))).store.congested[(0 : QueueIx)]
        = true := by
  refine ⟨waits_passes _ _ _ _ rfl, waits_passes _ _ _ _ rfl, ⟨rfl, rfl, rfl⟩, ?_⟩
  decide +kernel

theorem test_FlushQueueEmptiesNamedQueues :
    Waits (passes .trk .flushQueue [0] (holding (upq 0) true Hw.reset)) .trk .flushQueue [0]
    ∧ (holding (upq 0) true Hw.reset).store.queueIs (upq 0) [0] 1
    ∧ (holding (upq 0) true Hw.reset).store.queueIs (dnq 0) [] 0
    ∧ reply (.flushQueue .trk [0]) .flushQueue .trk [0] (holding (upq 0) true Hw.reset) = [0x12, 0, 2, 0, 1]
    ∧ reply (.flushQueue .trk [0, 1]) .flushQueue .trk [0, 1] (holding (upq 0) true Hw.reset) = [0x12, 0, 2, 0, 0]
    ∧ reply (.flushQueue .trk [0, 3]) .flushQueue .trk [0, 3] Hw.reset = [0x12, 5, 0]
    ∧ reply (.flushQueue .trk [24]) .flushQueue .trk [24] Hw.reset = [0x12, 5, 0] := by
  refine ⟨waits_passes _ _ _ _ rfl, queueIs_holding.1,
    ⟨⟨rfl, rfl, rfl⟩, rfl, List.nodup_nil, fun _ h => (by cases h), Nat.le_refl 0, rfl, rfl, rfl, rfl, rfl⟩, ?_⟩
  decide +kernel

/-- The flush of a congested upstream queue is one change of the record. -/
theorem test_FlushQueueEmptiesNamedQueues_record :
    congestedChanged (pressed 4) (after (.flushQueue .trk [0]) (passes .trk .flushQueue [0] (pressed 4))) 0 = true
    ∧ (pressed 4).recordsStepped (after (.flushQueue .trk [0]) (passes .trk .flushQueue [0] (pressed 4))) (fun m => m == 0) := by
  unfold Hw.recordsStepped Hw.recordAfter
  decide +kernel

/-! ### Whole blocks and the trunk link -/

theorem test_BlockReadsAnswerTheirItems :
    Waits (passes .tst .readIntegrity [] faulted) .tst .readIntegrity []
    ∧ reply (.readIntegrity .tst []) .readIntegrity .tst [] faulted
        = [0x50, 0, 23, 0, 255, 0, 0, 0, 0, 0, 0, 0, 1, 0, 255, 0, 0, 0, 0, 0, 0, 1, 0, 0, 0, 0]
    ∧ reply (.readTrunk .tst []) .readTrunk .tst [] Hw.reset
        = [0x18, 0, 14, 0, 0, 0, 0, 2, 0, 255, 255, 255, 255, 0, 0, 0, 0]
    ∧ (reply (.readRelays .tst []) .readRelays .tst [] Hw.reset).length = 3 + 96 + 1 + 60 + 1 + 12 + 8 + 2
    ∧ (reply (.readSense .tst []) .readSense .tst [] Hw.reset).length = 3 + 84
    ∧ (reply (.readPower .tst []) .readPower .tst [] Hw.reset).length = 3 + 96 := by
  refine ⟨waits_passes _ _ _ _ rfl, ?_⟩
  decide +kernel

/-- The part with another trunk state. -/
def trunkIn (d : Delineation) (position : Nat) (bytes : List Byte) (h : Hw) : Hw :=
  { h with trunk := { h.trunk with delineation := d, position := position, headerBytes := bytes } }

/-- The window empty and full; a header that is bad, and the good one of pair 5; confirm counts that come to 2 and to 3. -/
theorem test_AlignmentIsSearchedAndConfirmed :
    Hw.reset.requests = [] ∧ Hw.reset.trunk.delineation = .search ∧ Hw.reset.trunk.window.length ≤ 3
    ∧ readHeader [0x28, 0x40, 0xD6] = some ⟨5, .ordinary, 64⟩ ∧ readHeader [0x28, 0x40, 0xD7] = none
    ∧ (after (.byteArrival 0x28 true) State.reset).trunk.window = [0x28]
    ∧ (after (.byteArrival 0xD6 true) (alone
        { Hw.reset with trunk := { Hw.reset.trunk with window := [0, 0x28, 0x40] } })).trunk.delineation = .confirm
    ∧ (after (.byteArrival 0xD6 true) (alone
        (trunkIn .confirm 2 [0x28, 0x40] { Hw.reset with trunk := { Hw.reset.trunk with confirmCount := 1 } }))).trunk.delineation
        = .confirm
    ∧ (after (.byteArrival 0xD6 true) (alone
        (trunkIn .confirm 2 [0x28, 0x40] { Hw.reset with trunk := { Hw.reset.trunk with confirmCount := 2 } }))).trunk.delineation
        = .locked
    ∧ (after (.byteArrival 0x28 true) (alone (trunkIn .confirm 0 [] Hw.reset))).trunk
        = (trunkIn .confirm 0 [] Hw.reset).trunk.headerByteHeld 0x28
    ∧ (after (.byteArrival 0x40 true) (alone (trunkIn .confirm 1 [0x28] Hw.reset))).trunk.headerBytes = [0x28, 0x40]
    ∧ (after (.byteArrival 0xD7 true) (alone (trunkIn .confirm 2 [0x28, 0x40] Hw.reset))).trunk.window = [0x40, 0xD7] := by
  decide +kernel

/-- The first and the second header byte; the fourth and the fifth bad header; a good one with 64 and with 65 free cells. -/
theorem test_LockedHeaderAllocatesOrCounts :
    (after (.byteArrival 0x28 true) (alone (trunkIn .locked 0 [] Hw.reset))).trunk
      = (trunkIn .locked 0 [] Hw.reset).trunk.headerByteHeld 0x28 ∧
    (after (.byteArrival 0x40 true) (alone (trunkIn .locked 1 [0x28] Hw.reset))).trunk.position = 2 ∧
    (after (.byteArrival 0xD7 true) (alone
      (trunkIn .locked 2 [0x28, 0x40] { Hw.reset with trunk := { Hw.reset.trunk with badRun := 3 } }))).trunk.badRun = 4
    ∧ (after (.byteArrival 0xD7 true) (alone
      (trunkIn .locked 2 [0x28, 0x40] { Hw.reset with trunk := { Hw.reset.trunk with badRun := 4 } }))).trunk.lockLosses = 1
    ∧ (after (.byteArrival 0xD6 true) (alone (trunkIn .locked 2 [0x28, 0x40]
        { Hw.reset with store := { Hw.reset.store with freeCount := 64 } }))).store.holds.trunkRx = none
    ∧ (after (.byteArrival 0xD6 true) (alone (trunkIn .locked 2 [0x28, 0x40]
        { Hw.reset with store := { Hw.reset.store with freeCount := 65 } }))).store.holds.trunkRx = some 0
    ∧ (Hw.reset.store.owner 0).upset = .none ∧ (Hw.reset.store.owner 0).val ≠ .retired
    ∧ (Hw.reset.store.link 0).val.next = StoreRun.nextOf (some 1) := by decide +kernel

/-- Cell 2047 is held, its payload being received for pair 0. -/
def receiving (position : Nat) (h : Hw) : Hw :=
  trunkIn .locked position [] { h with
    store := { h.store with holds := { h.store.holds with trunkRx := some 2047 } }
    trunk := { h.trunk with current := some ⟨⟨0, .ordinary, 64⟩, true⟩ } }

/-- The first and the last payload byte; the cell is kept by a pair in service and freed for one that is not. -/
theorem test_PayloadByteIsKeptAndCellIsOffered :
    (receiving 3 Hw.reset).trunk.delineation ≠ .search
    ∧ (after (.byteArrival 7 true) (alone (receiving 3 Hw.reset))).store.payloadByte 2047 0 = 7
    ∧ (after (.byteArrival 7 true) (alone (receiving 66 Hw.reset))).store.freeHead = some 2047
    ∧ (after (.byteArrival 7 true) (alone (receiving 66 (serving 0 0 1 Hw.reset)))).store.descriptors[(24 : QueueIx)].fields
        = ⟨some 2047, some 2047, 1, 64, 48, 0, none⟩
    ∧ (after (.byteArrival 7 true) (alone (receiving 66 (serving 0 0 1 Hw.reset)))).store.payloadByte 2047 63 = 7
    ∧ queueEligible (serving 0 0 1 Hw.reset) 0 = true
    ∧ (after (.byteArrival 7 true) (alone (trunkIn .locked 66 [] Hw.reset))).trunk.position = 0 := by decide +kernel

theorem queueIs_limited (limit : Nat) (urgent : Bool) :
    (limited (dnq 0) limit urgent (serving 0 0 1 Hw.reset)).store.queueIs (dnq 0) [0] (if urgent then 1 else 0)
    ∧ (limited (upq 23) limit urgent (serving 23 0 1 Hw.reset)).store.queueIs (upq 23) [0] (if urgent then 1 else 0) := by
  cases urgent
  all_goals
    refine ⟨⟨⟨rfl, rfl, rfl⟩, rfl, by decide, fun c hc => ?_, by decide, ⟨rfl, rfl, none, rfl, rfl⟩, rfl, rfl, rfl, rfl⟩,
      ⟨⟨rfl, rfl, rfl⟩, rfl, by decide, fun c hc => ?_, by decide, ⟨rfl, rfl, none, rfl, rfl⟩, rfl, rfl, rfl, rfl⟩⟩
    all_goals
      rw [List.mem_singleton] at hc
      subst hc
      exact ⟨rfl, fun h => by cases h⟩

/-- A held cell, urgent or not, is whole: what DNQ[0] and the free list are after it, the queue holding cell 0 alone. -/
def offered (kind : HeaderKind) (h : Hw) : Descriptor × Option CellIx × Nat :=
  let x := after (.byteArrival 7 true) (alone
    (let h := receiving 66 h; { h with trunk := { h.trunk with current := some ⟨⟨0, kind, 64⟩, true⟩ } }))
  (x.store.descriptors[dnq 0].fields, x.store.freeHead, x.store.freeCount)

/-- The queue at its limit of 1: an ordinary cell is refused, an urgent one displaces an ordinary one and is refused where
all are urgent; above a limit of 0 both cells are freed; an urgent cell joins below the limit and is freed in FAULT HOLD. -/
theorem test_PayloadByteIsKeptAndCellIsOffered_limit :
    offered .ordinary (limited (dnq 0) 1 false (serving 0 0 1 Hw.reset))
      = (⟨some 0, some 0, 1, 1, 48, 0, none⟩, some 2047, 2048)
    ∧ offered .urgent (limited (dnq 0) 1 false (serving 0 0 1 Hw.reset))
      = (⟨some 2047, some 2047, 1, 1, 48, 1, some 2047⟩, some 0, 2048)
    ∧ offered .urgent (limited (dnq 0) 1 true (serving 0 0 1 Hw.reset))
      = (⟨some 0, some 0, 1, 1, 48, 1, some 0⟩, some 2047, 2048)
    ∧ offered .urgent (limited (dnq 0) 0 false (serving 0 0 1 Hw.reset))
      = (⟨none, none, 0, 0, 48, 0, none⟩, some 2047, 2049)
    ∧ offered .urgent (limited (dnq 0) 2 false (serving 0 0 1 Hw.reset))
      = (⟨some 2047, some 0, 2, 2, 48, 1, some 2047⟩, some 1, 2047)
    ∧ offered .urgent (limited (dnq 0) 2 false (serving 0 0 1 faulted))
      = (⟨some 0, some 0, 1, 2, 48, 0, none⟩, some 2047, 2048) := by decide +kernel

theorem test_TrunkTimersEndReceptionAndSending :
    (receiving 9 { Hw.reset with trunk := { Hw.reset.trunk with silence := some 0 } }).trunk.silence.isSome = true
    ∧ (after .silenceTimerExpiry (alone (receiving 9 { Hw.reset with trunk := { Hw.reset.trunk with silence := some 0 } }))).store.freeHead
        = some 2047
    ∧ (after .doneTimerExpiry (alone { Hw.reset with
        trunk := { Hw.reset.trunk with doneTimer := some 0, doneTimeouts := 255 }
        store := { Hw.reset.store with holds := { Hw.reset.store.holds with trunkTx := some 2047 } } })).trunk.doneTimeouts = 255
    ∧ (after .transmitDone (alone { Hw.reset with
        store := { Hw.reset.store with holds := { Hw.reset.store.holds with trunkTx := some 2047 } } })).store.freeHead
        = some 2047
    ∧ after .transmitDone State.reset = Hw.reset := by decide +kernel

theorem test_SetTrunkApplies :
    Waits (passes .trk .setTrunk [1, 1, 1] Hw.reset) .trk .setTrunk [1, 1, 1]
    ∧ Hw.reset.store.holds.trunkRx = none
    ∧ reply (.setTrunk .trk [1] true) .setTrunk .trk [1] (trunkIn .locked 0 [] Hw.reset) = [0x19, 0, 3, 1, 2, 1]
    ∧ reply (.setTrunk .trk [1, 1, 1] true) .setTrunk .trk [1, 1, 1] (trunkIn .locked 0 [] Hw.reset) = [0x19, 0, 3, 1, 0, 0]
    ∧ reply (.setTrunk .trk [1, 1, 2] true) .setTrunk .trk [1, 1, 2] Hw.reset = [0x19, 5, 0] := by
  refine ⟨waits_passes _ _ _ _ rfl, ?_⟩
  decide +kernel

/-- A resync in LOCKED and in CONFIRM with a cell held, and in SEARCH. -/
theorem test_SetTrunkApplies_resync :
    Waits (passes .trk .setTrunk [1, 1] (receiving 9 Hw.reset)) .trk .setTrunk [1, 1]
    ∧ (receiving 9 Hw.reset).store.usable 2047 ∧ (receiving 9 Hw.reset).store.freeGeneration.upset = .none
    ∧ (receiving 9 Hw.reset).trunk.delineation ≠ .search ∧ (receiving 9 Hw.reset).store.holds.trunkRx = some 2047
    ∧ reply (.setTrunk .trk [1, 1] true) .setTrunk .trk [1, 1] (receiving 9 Hw.reset) = [0x19, 0, 3, 1, 0, 0]
    ∧ (after (.setTrunk .trk [1, 1] true) (passes .trk .setTrunk [1, 1] (receiving 9 Hw.reset))).store.freeHead = some 2047
    ∧ (after (.setTrunk .trk [1, 1] true) (passes .trk .setTrunk [1, 1] (receiving 9 Hw.reset))).trunk
        = (receiving 9 Hw.reset).trunk.resynced true false
    ∧ (after (.setTrunk .trk [1, 1, 1] true) (passes .trk .setTrunk [1, 1, 1] (receiving 9 Hw.reset))).trunk
        = (receiving 9 Hw.reset).trunk.resynced true true
    ∧ (after (.setTrunk .trk [1, 1] true) (passes .trk .setTrunk [1, 1] (trunkIn .confirm 9 [] (receiving 9 Hw.reset)))).trunk
        = (trunkIn .confirm 9 [] (receiving 9 Hw.reset)).trunk.resynced true false
    ∧ (after (.setTrunk .trk [1, 1] true) (passes .trk .setTrunk [1, 1] (trunkIn .search 9 [] (receiving 9 Hw.reset)))).store.holds.trunkRx
        = some 2047 := by
  refine ⟨waits_passes _ _ _ _ rfl, ⟨rfl, fun h => by cases h⟩, ?_⟩
  decide +kernel

/-! ### Sharing the uplink -/

def permitted (h : Hw) : Hw := { h with trunk := { h.trunk with permitted := true } }

/-- Pair 0 in service with one cell in its upstream queue. -/
def sender (urgent : Bool) (tier : Fin 4) : Hw := permitted (holding (upq 0) urgent (serving 0 tier 2 Hw.reset))

/-- The urgent step, the lifeline step, the credit round with a weight of 2, and no step find pair 0. -/
theorem test_OpportunityServesInOrder :
    (sender true 1).schedulerGood ∧ firstFrom (sender true 1).sched.urgentPtr (sender true 1).hasUrgent [] 0
    ∧ (sender true 1).store.queueIs (upq 0) [0] 1
    ∧ firstFrom (sender false 0).sched.tier0Ptr (sender false 0).hasLifeline [] 0
    ∧ firstFrom (sender false 1).sched.roundPtr (sender false 1).hasCredit [] 0
    ∧ (sender false 1).store.queueIs (upq 0) [0] 0
    ∧ (∀ m, ¬ (permitted Hw.reset).hasUrgent m ∧ ¬ (permitted Hw.reset).hasLifeline m ∧ ¬ (permitted Hw.reset).hasCredit m)
    ∧ (after .treadyRise (alone (sender true 1))).store.holds.trunkTx = some 0
    ∧ (after .treadyRise (alone (sender true 1))).sched.urgentPtr = 1
    ∧ (after .treadyRise (alone (sender false 0))).sched.tier0Ptr = 1
    ∧ (after .treadyRise (alone (sender false 1))).sched.roundPtr = 1
    ∧ after .treadyRise (alone (permitted Hw.reset)) = permitted Hw.reset := by
  refine ⟨?_, ⟨(pairsFrom 0).tail, by decide, fun _ h => (by cases h), ?_⟩, ?_, ⟨(pairsFrom 0).tail, by decide, fun _ h => (by cases h), ?_⟩,
    ⟨(pairsFrom 0).tail, by decide, fun _ h => (by cases h), ?_⟩, ?_, ?_, ?_⟩
  · unfold Hw.schedulerGood Store.descriptorGood; decide +kernel
  · unfold Hw.hasUrgent; decide +kernel
  · exact queueIs_holding.1
  · unfold Hw.hasLifeline; decide +kernel
  · unfold Hw.hasCredit; decide +kernel
  · exact queueIs_holding.2.1
  · unfold Hw.hasUrgent Hw.hasLifeline Hw.hasCredit; decide +kernel
  · decide +kernel

/-- The urgent and the lifeline step find pair 0 while the trunk transmit hold is occupied: nothing changes. The credit round
finds it, with credit 0 and with credit 1, a pair passed over having credit 5: its pointer and its refill stand. -/
theorem test_OpportunityServesInOrder_occupied :
    (occupied (sender true 1)).schedulerGood ∧ (occupied (sender true 1)).hasUrgent 0
    ∧ (occupied (sender false 0)).hasLifeline 0
    ∧ after .treadyRise (alone (occupied (sender true 1))) = occupied (sender true 1)
    ∧ after .treadyRise (alone (occupied (sender false 0))) = occupied (sender false 0)
    ∧ (after .treadyRise (alone (setRoundPtr 23 (setCredit 23 5 (occupied (sender false 1)))))).sched
        = { (sender false 1).sched with roundPtr := 0, credit := (Vector.replicate 24 0).set 0 2 }
    ∧ (after .treadyRise (alone (setCredit 0 1 (occupied (sender false 1))))).sched.credit[(0 : PairIx)] = 1
    ∧ (after .treadyRise (alone (setCredit 0 1 (occupied (sender false 1))))).store = (occupied (sender false 1)).store
    ∧ after .treadyRise (alone (occupied (permitted Hw.reset))) = occupied (permitted Hw.reset) := by
  refine ⟨?_, ?_, ?_, ?_⟩
  · unfold Hw.schedulerGood Store.descriptorGood; decide +kernel
  · unfold Hw.hasUrgent; decide +kernel
  · unfold Hw.hasLifeline; decide +kernel
  · decide +kernel

/-- Pair 0 sends from a queue of two cells, of which the owner word of the first cannot be read, while an error is pending. -/
def failing : Hw :=
  { sender false 1 with
    store := { (sender false 1).store with
      descriptors := (sender false 1).store.descriptors.set (upq 0) (.fresh ⟨some 0, some 1, 2, 64, 48, 0, none⟩)
      owners := [(0, ⟨.queue 0 0, .double 0 0⟩), (1, .fresh (.queue 0 0))]
      links := [(0, .fresh ⟨.cell 1, 10⟩), (1, .fresh ⟨.fin, 10⟩)] }
    integ := { (sender false 1).integ with pending := some ⟨0, 0⟩, gate := .waiting } }

/-- A TAKE of the credit round that enters FAULT HOLD leaves the credit at 0, a cell still queued. -/
theorem test_OpportunityServesInOrder_faultHold :
    (after .treadyRise (alone failing)).integ.faultHold = true
    ∧ (after .treadyRise (alone failing)).store.descriptors[upq 0].fields.count = 1
    ∧ (after .treadyRise (alone failing)).sched.credit = Vector.replicate 24 0 := by decide +kernel

/-- An offer of a line card, of 1 or 64 bytes or of none or too many. -/
def offer (kind length : Byte) : CardOffer := ⟨kind, length, Vector.replicate 64 9⟩

/-- Pair 23 is polled: no signal, LRDY with an empty queue and with a cell, and offers at the boundaries of their ranges. -/
theorem test_PollExchangesCells :
    (∀ n : PairIx, Hw.reset.line.eligible[n] = false)
    ∧ firstFrom (serving 23 0 1 Hw.reset).line.pollPtr (fun m => (serving 23 0 1 Hw.reset).line.eligible[m] = true)
        ((List.finRange 24).take 23) 23
    ∧ (holding (dnq 23) false (serving 23 0 1 Hw.reset)).store.queueIs (dnq 23) [0] 0
    ∧ (serving 23 0 1 Hw.reset).store.queueIs (upq 23) [] 0
    ∧ queueEligible (serving 23 0 1 Hw.reset) 23 = true
    ∧ (after (.pollTimerExpiry ⟨false, none⟩) (alone (serving 23 0 1 Hw.reset))).line.slot = some 23
    ∧ (after (.pollTimerExpiry ⟨true, none⟩) (alone (holding (dnq 23) false (serving 23 0 1 Hw.reset)))).line.delivered
        = some ⟨23, 0, 10, List.replicate 10 0⟩
    ∧ (after (.pollTimerExpiry ⟨false, some (offer 0 1)⟩) (alone (serving 23 0 1 Hw.reset))).store.descriptors[(23 : QueueIx)].fields
        = ⟨some 0, some 0, 1, 64, 48, 0, none⟩
    ∧ (after (.pollTimerExpiry ⟨false, some (offer 1 64)⟩) (alone (serving 23 0 1 Hw.reset))).store.descriptors[(23 : QueueIx)].fields
        = ⟨some 0, some 0, 1, 64, 48, 1, some 0⟩
    ∧ (after (.pollTimerExpiry ⟨false, some (offer 1 64)⟩) (alone (serving 23 0 1 Hw.reset))).store.payloadByte 0 63 = 9
    ∧ (after (.pollTimerExpiry ⟨false, some (offer 2 64)⟩) (alone (serving 23 0 1 Hw.reset))).store = Hw.reset.store
    ∧ (after (.pollTimerExpiry ⟨false, some (offer 0 65)⟩) (alone (serving 23 0 1 Hw.reset))).line.activity[23] = some 0
    ∧ (after (.pollTimerExpiry ⟨false, some (offer 0 64)⟩) (alone { serving 23 0 1 Hw.reset with
        store := { Hw.reset.store with freeCount := 64 } })).store.freeHead = some 0 := by
  refine ⟨by decide +kernel, ⟨[], by decide, by decide +kernel, by decide +kernel⟩, queueIs_holding.2.2, queueIs_reset 23, ?_⟩
  decide +kernel

/-- What a poll of pair 23 leaves: the free list, UPQ[23] and DNQ[23], and what went to the card. -/
def polled (card : CardSignals) (h : Hw) : (Option CellIx × Nat) × Descriptor × Descriptor × Option Delivery :=
  let x := after (.pollTimerExpiry card) (alone h)
  ((x.store.freeHead, x.store.freeCount), x.store.descriptors[upq 23].fields, x.store.descriptors[dnq 23].fields,
    x.line.delivered)

/-- A card that shows both signals: an ordinary and an urgent offer, which take the cell just delivered; a malformed one, and
an ordinary one at 63 and at 64 free cells; and an empty downstream queue. -/
theorem test_PollExchangesCells_both :
    (holding (dnq 23) false (serving 23 0 1 Hw.reset)).store.queueIs (dnq 23) [0] 0
    ∧ polled ⟨true, some (offer 0 64)⟩ (holding (dnq 23) false (serving 23 0 1 Hw.reset))
      = ((some 1, 2047), ⟨some 0, some 0, 1, 64, 48, 0, none⟩, ⟨none, none, 0, 64, 48, 0, none⟩,
          some ⟨23, 0, 10, List.replicate 10 0⟩)
    ∧ polled ⟨true, some (offer 1 1)⟩ (holding (dnq 23) true (serving 23 0 1 Hw.reset))
      = ((some 1, 2047), ⟨some 0, some 0, 1, 64, 48, 1, some 0⟩, ⟨none, none, 0, 64, 48, 0, none⟩,
          some ⟨23, 1, 10, List.replicate 10 0⟩)
    ∧ polled ⟨true, some (offer 2 64)⟩ (holding (dnq 23) false (serving 23 0 1 Hw.reset))
      = ((some 0, 2048), ⟨none, none, 0, 64, 48, 0, none⟩, ⟨none, none, 0, 64, 48, 0, none⟩,
          some ⟨23, 0, 10, List.replicate 10 0⟩)
    ∧ (polled ⟨true, some (offer 0 64)⟩ (let h := holding (dnq 23) false (serving 23 0 1 Hw.reset)
        { h with store := { h.store with freeCount := 63 } })).1 = (some 0, 64)
    ∧ (polled ⟨true, some (offer 0 64)⟩ (let h := holding (dnq 23) false (serving 23 0 1 Hw.reset)
        { h with store := { h.store with freeCount := 64 } })).1 = (some 1, 64)
    ∧ polled ⟨true, some (offer 0 64)⟩ (serving 23 0 1 Hw.reset) = polled ⟨false, some (offer 0 64)⟩ (serving 23 0 1 Hw.reset) := by
  refine ⟨queueIs_holding.2.2, ?_, ?_, ?_, ?_, ?_, ?_⟩ <;> decide +kernel

/-- Offers to UPQ[23] at its limit of 1, with its one cell ordinary or urgent, above a limit of 0, and by a pair that is no
longer queue-eligible. -/
theorem test_PollExchangesCells_limit :
    (polled ⟨false, some (offer 0 64)⟩ (limited (upq 23) 1 false (serving 23 0 1 Hw.reset))).1 = (some 1, 2047)
    ∧ polled ⟨false, some (offer 1 64)⟩ (limited (upq 23) 1 false (serving 23 0 1 Hw.reset))
      = ((some 0, 2047), ⟨some 1, some 1, 1, 1, 48, 1, some 1⟩, ⟨none, none, 0, 64, 48, 0, none⟩, none)
    ∧ polled ⟨false, some (offer 1 64)⟩ (limited (upq 23) 1 true (serving 23 0 1 Hw.reset))
      = ((some 1, 2047), ⟨some 0, some 0, 1, 1, 48, 1, some 0⟩, ⟨none, none, 0, 64, 48, 0, none⟩, none)
    ∧ polled ⟨false, some (offer 1 64)⟩ (limited (upq 23) 0 false (serving 23 0 1 Hw.reset))
      = ((some 1, 2048), ⟨none, none, 0, 0, 48, 0, none⟩, ⟨none, none, 0, 64, 48, 0, none⟩, none)
    ∧ (polled ⟨false, some (offer 0 64)⟩ { serving 23 0 1 Hw.reset with
        power := Hw.reset.power }).1 = (some 0, 2048) := by decide +kernel

/-! ### The relay matrix -/

theorem test_MoveRequestWaitsRunsOrIsDone : Hw.reset.relay.queueGood
    ∧ ((relayRun Hw.reset).request 23 .bus0 .testBus).relay.normalSection.length = 20
    ∧ ((relayRun Hw.reset).request 23 .isolated .relayUnit).relay.guardSection.length = 1
    ∧ ((relayRun (serving 0 0 1 Hw.reset)).request 0 .through .testBus).out = [.report (.relayDone 0 .through)] := by
  refine ⟨by unfold Relay.queueGood Relay.entries; decide, ?_⟩
  decide +kernel

/-- R88 in the queue of the reset, whose slots are taken: pair 10 keeps its place, goes to the other section, and comes back
to the end of its own; pair 0, which moves, joins the end. -/
theorem test_MoveRequestWaitsRunsOrIsDone_place :
    let u := Hw.reset.relay
    let own := ((relayRun Hw.reset).take 10 .bus0 .testBus).relay
    let other := (relayRun Hw.reset).take 10 .isolated .relayUnit
    let back := (other.take 10 .through .relayUnit).relay
    u.waits 10 ∧ u.normalSection = u.normalSection.take 6 ++ ⟨10, .through, .relayUnit⟩ :: u.normalSection.drop 7
    ∧ own.normalSection = u.normalSection.take 6 ++ ⟨10, .bus0, .testBus⟩ :: u.normalSection.drop 7
    ∧ other.relay.guardSection = [⟨10, .isolated, .relayUnit⟩]
    ∧ other.relay.normalSection = u.normalSection.take 6 ++ u.normalSection.drop 7
    ∧ back.guardSection = []
    ∧ back.normalSection = u.normalSection.take 6 ++ u.normalSection.drop 7 ++ [⟨10, .through, .relayUnit⟩]
    ∧ ¬ u.waits 0 ∧ u.pairs[(0 : PairIx)].moving = true
    ∧ ((relayRun Hw.reset).take 0 .bus0 .testBus).relay.normalSection = u.normalSection ++ [⟨0, .bus0, .testBus⟩] := by
  unfold Relay.waits
  decide +kernel

/-- No entry waits, and one move is in flight, of pair 23. -/
def moving (pos target : RelayPos) (q : Requester) (h : Hw) : Hw :=
  { h with relay := { h.relay with
      pairs := h.relay.pairs.set 23 ⟨pos, true, target, .none, some target⟩
      slots := (Vector.replicate 4 none).set 3 (some ⟨23, target, q, 0⟩)
      normalSection := [] } }

/-- The move of the last slot is the relay unit's, a selection, and a departure; the guard timer of the last block. -/
theorem test_RelayTimersCompleteMovesAndClearGuards :
    (moving .unknown .through .relayUnit Hw.reset).relay.entries = []
    ∧ after (.settleTimerExpiry 3) (alone (moving .unknown .through .relayUnit Hw.reset))
        = recordChanged 23 { Hw.reset with relay := { (moving .unknown .through .relayUnit Hw.reset).relay with
            pairs := Hw.reset.relay.pairs.set 23 ⟨.through, false, .through, .none, some .through⟩
            slots := Vector.replicate 4 none } }
    ∧ (busRecord (after (.settleTimerExpiry 3) (alone (onBusState .bus1 .selecting (some .tst) (some 23)
        (moving .through .bus1 .testBus Hw.reset)))) .bus1).state = .ready
    ∧ busRecord (after (.settleTimerExpiry 3) (alone (setBus .bus1 ⟨.deselecting, none, [], none, some 23, none, none⟩
        (moving .bus1 .through .relayUnit Hw.reset)))) .bus1 = ⟨.free, none, [], none, none, none, none⟩
    ∧ after (.settleTimerExpiry 3) (alone { Hw.reset with relay := { Hw.reset.relay with slots := Vector.replicate 4 none } })
        = { Hw.reset with relay := { Hw.reset.relay with slots := Vector.replicate 4 none } }
    ∧ ((after (.guardTimerExpiry 3) (alone { Hw.reset with relay := { Hw.reset.relay with
        guardTimers := Hw.reset.relay.guardTimers.set 3 (some 0)
        pairs := Hw.reset.relay.pairs.set 23 ⟨.isolated, false, .isolated, .surge, none⟩ } })).relay.pairs[23]).guard = .none
    ∧ after (.guardTimerExpiry 3) State.reset = Hw.reset := by decide +kernel

/-- Pair 23 is guarded by a surge whose guard timer has run out; nothing waits in the relay queue. -/
def surged : Hw :=
  { Hw.reset with relay := { Hw.reset.relay with
      guardTimers := Hw.reset.relay.guardTimers.set 3 (some 0)
      pairs := Hw.reset.relay.pairs.set 23 ⟨.isolated, false, .isolated, .surge, none⟩
      slots := Vector.replicate 4 none
      normalSection := [] } }

/-- A departure that the test bus unit requested, with a holder and without; the THROUGH request after a guard. -/
theorem test_RelayTimersCompleteMovesAndClearGuards_departure :
    busRecord (after (.settleTimerExpiry 3) (alone (setBus .bus1 ⟨.deselecting, none, [], none, some 23, none, none⟩
        (moving .bus1 .through .testBus Hw.reset)))) .bus1 = ⟨.free, none, [], none, none, none, none⟩
    ∧ busRecord (after (.settleTimerExpiry 3) (alone (setBus .bus1 ⟨.deselecting, some .tst, [], none, some 23, none, none⟩
        (moving .bus1 .through .testBus Hw.reset)))) .bus1 = ⟨.held, some .tst, [], none, none, some 120000, none⟩
    ∧ surged.relay.queueGood ∧ surged.relay.pairs[(23 : PairIx)].guard = .surge
    ∧ ((after (.guardTimerExpiry 3) (alone surged)).relay.pairs[23]).target = .through := by
  refine ⟨by decide +kernel, by decide +kernel, ?_, by decide +kernel, by decide +kernel⟩
  unfold Relay.queueGood Relay.entries
  decide +kernel

/-- The end of a move is one step, and so is the start of the pair's next; a guard cleared and its move started are two. -/
theorem test_RelayTimersCompleteMovesAndClearGuards_records :
    (storedPair (after (.settleTimerExpiry 3) (alone (moving .unknown .through .relayUnit Hw.reset))) 23).first.val.version = 1
    ∧ (storedPair (after (.settleTimerExpiry 3) (alone { moving .unknown .through .relayUnit Hw.reset with
        relay := { (moving .unknown .through .relayUnit Hw.reset).relay with
          guardSection := [⟨23, .isolated, .relayUnit⟩] } })) 23).first.val.version = 2
    ∧ surged.recordsStepped (after (.guardTimerExpiry 3) (alone surged)) (fun n => n == 23)
    ∧ (storedPair (after (.guardTimerExpiry 3) (alone surged)) 23).first.val.version = 2
    ∧ (after (.guardTimerExpiry 3) (alone surged)).relay.asked 23 .through .relayUnit := by
  unfold Hw.recordsStepped Hw.recordAfter Relay.asked
  decide +kernel

/-- With every slot taken the guard alone is a step; with one free the move starts, and is another. A poisoned record
steps for neither. -/
theorem test_IsolateAndUnisolateSetGuard_records :
    Hw.reset.relay.queueGood ∧ surged.relay.queueGood
    ∧ (after (.isolate .sup [23]) (passes .sup .isolate [23] Hw.reset)).relay.asked 23 .isolated .relayUnit
    ∧ (storedPair (after (.isolate .sup [23]) (passes .sup .isolate [23] Hw.reset)) 23).first.val.version = 1
    ∧ (after (.unisolate .sup [23]) (passes .sup .unisolate [23] surged)).relay.asked 23 .through .relayUnit
    ∧ surged.recordsStepped (after (.unisolate .sup [23]) (passes .sup .unisolate [23] surged)) (fun m => m == 23)
    ∧ reply (.unisolate .sup [23]) .unisolate .sup [23] surged = [0x21, 0, 6, 0, 4, 1, 1, 0, 2]
    ∧ reply (.unisolate .sup [23]) .unisolate .sup [23] (poisonedAt 23 surged) = [0x21, 0, 6, 0, 4, 1, 1, 0, 0] := by
  refine ⟨queueGood_reset, ?_, ?_⟩
  · unfold Relay.queueGood Relay.entries
    decide +kernel
  · unfold Hw.recordsStepped Hw.recordAfter Relay.asked
    decide +kernel

theorem test_IsolateAndUnisolateSetGuard :
    Waits (passes .sup .isolate [23, 0, 0] Hw.reset) .sup .isolate [23, 0, 0] ∧ busOf Hw.reset 23 = none
    ∧ expected [23, 0, 0] 1 = some (shownVersion Hw.reset 23)
    ∧ reply (.isolate .sup [23, 0, 0]) .isolate .sup [23, 0, 0] Hw.reset = [0x20, 0, 6, 2, 0, 0, 0, 0, 1]
    ∧ reply (.isolate .sup [23, 0, 1]) .isolate .sup [23, 0, 1] Hw.reset = [0x20, 6, 2, 0, 0]
    ∧ reply (.isolate .sup [23]) .isolate .sup [23] (onBusState .bus0 .ready (some .tst) (some 23) Hw.reset) = [0x20, 2, 0]
    ∧ reply (.isolate .sup [23, 0]) .isolate .sup [23, 0] Hw.reset = [0x20, 4, 0]
    ∧ reply (.unisolate .sup [24]) .unisolate .sup [24] Hw.reset = [0x21, 5, 0]
    ∧ reply (.unisolate .sup [23]) .unisolate .sup [23] Hw.reset = [0x21, 0, 6, 0, 0, 0, 0, 0, 0]
    ∧ reply (.unisolate .sup [23]) .unisolate .sup [23] { Hw.reset with relay := { Hw.reset.relay with
        surgeLevels := Hw.reset.relay.surgeLevels.set 3 .high } } = [0x21, 2, 0] := by
  refine ⟨waits_passes _ _ _ _ rfl, ?_⟩
  decide +kernel

/-- The first word of pair 23 with one upset bit, corrected, written back and counted; with two in a record poisoned
already; and with two that the read finds, compared as 0. -/
theorem test_IsolateAndUnisolateSetGuard_read :
    foundPoisoned (upsetWord 69 (.double 0 0) Hw.reset) 23
    ∧ firstWordRead (upsetWord 69 (.double 0 0) (poisonedAt 23 Hw.reset)) (upsetWord 69 (.double 0 0) (poisonedAt 23 Hw.reset)) 23
    ∧ checkPairWord 23 0 (upsetWord 69 (.single 5) (poisonedAt 23 Hw.reset)) = counted (poisonedAt 23 Hw.reset)
    ∧ reply (.isolate .sup [23, 0, 1]) .isolate .sup [23, 0, 1] (upsetWord 69 (.single 5) Hw.reset) = [0x20, 6, 2, 0, 0]
    ∧ (after (.isolate .sup [23, 0, 1]) (passes .sup .isolate [23, 0, 1] (upsetWord 69 (.single 5)
        (poisonedAt 23 Hw.reset)))).integ.corrections = 1
    ∧ (after (.isolate .sup [23]) (passes .sup .isolate [23] (upsetWord 69 (.single 5) Hw.reset))).integ.corrections = 0
    ∧ reply (.isolate .sup [23, 0, 0]) .isolate .sup [23, 0, 0] (upsetWord 69 (.double 0 0) (poisonedAt 23 Hw.reset))
        = [0x20, 0, 6, 2, 0, 0, 0, 0, 0]
    ∧ reply (.isolate .sup [23, 0, 1]) .isolate .sup [23, 0, 1] (upsetWord 69 (.double 0 0) Hw.reset) = [0x20, 6, 2, 0, 0]
    ∧ reply (.isolate .sup [23, 0, 0]) .isolate .sup [23, 0, 0] (upsetWord 69 (.double 0 0) Hw.reset)
        = [0x20, 0, 6, 2, 0, 0, 0, 0, 0]
    ∧ isPoisoned (after (.isolate .sup [23, 0, 0]) (passes .sup .isolate [23, 0, 0] (upsetWord 69 (.double 0 0) Hw.reset))) 23
        = true
    ∧ reply (.unisolate .sup [23, 0, 1]) .unisolate .sup [23, 0, 1] (upsetWord 69 (.double 0 0) surged) = [0x21, 6, 2, 0, 0]
    ∧ reply (.unisolate .sup [23, 0, 0]) .unisolate .sup [23, 0, 0] (upsetWord 69 (.double 0 0) surged)
        = [0x21, 0, 6, 0, 4, 1, 1, 0, 0] := by
  refine ⟨⟨rfl, rfl⟩, .inr (.inr ⟨rfl, rfl, rfl⟩), ?_⟩
  decide +kernel

/-! ### Test buses -/

/-- A bus that a port holds or waits for, and one that is free. -/
theorem test_ClaimBusGrantsOrQueues :
    Waits (passes .tst .claimBus [1, 1] Hw.reset) .tst .claimBus [1, 1]
    ∧ reply (.claimBus .tst [1]) .claimBus .tst [1] Hw.reset = [0x28, 0, 3, 1, 2, 255]
    ∧ reply (.claimBus .tst [1, 1]) .claimBus .tst [1, 1] (onBusState .bus1 .held (some .sup) none Hw.reset)
        = [0x28, 1, 3, 1, 0, 1]
    ∧ reply (.claimBus .tst [1, 0]) .claimBus .tst [1, 0] (onBusState .bus1 .held (some .sup) none Hw.reset)
        = [0x28, 8, 3, 1, 0, 255]
    ∧ reply (.claimBus .sup [1, 0]) .claimBus .sup [1, 0] (onBusState .bus1 .ready (some .sup) (some 23) Hw.reset)
        = [0x28, 0, 3, 3, 0, 255]
    ∧ reply (.claimBus .tst [1]) .claimBus .tst [1] contended = [0x28, 0, 3, 1, 2, 255]
    ∧ (busRecord (touchBus .sup .bus1 (onBusState .bus1 .ready (some .sup) (some 23) Hw.reset)) .bus1).hold = some 10000
    ∧ reply (.claimBus .tst [2]) .claimBus .tst [2] Hw.reset = [0x28, 5, 0]
    ∧ reply (.claimBus .tst [1, 2]) .claimBus .tst [1, 2] Hw.reset = [0x28, 5, 0]
    ∧ reply (.claimBus .tst []) .claimBus .tst [] Hw.reset = [0x28, 4, 0] := by
  refine ⟨waits_passes _ _ _ _ rfl, ?_⟩
  decide +kernel

theorem test_ReleaseCommandsPassBusOn :
    Waits (passes .sup .releaseBus [1] (onBusState .bus1 .held (some .sup) none Hw.reset)) .sup .releaseBus [1]
    ∧ Waits (passes .sup .forceRelease [1] (onBusState .bus1 .held (some .sup) none Hw.reset)) .sup .forceRelease [1]
    ∧ Hw.reset.pairsGood
    ∧ reply (.releaseBus .sup [1]) .releaseBus .sup [1] (onBusState .bus1 .held (some .sup) none Hw.reset)
        = [0x29, 0, 2, 0, 255]
    ∧ reply (.releaseBus .sup [1]) .releaseBus .sup [1] (setBus .bus1 ⟨.held, some .sup, [.tst], none, none, none, none⟩ Hw.reset)
        = [0x29, 0, 2, 1, 2]
    ∧ reply (.releaseBus .sup [1]) .releaseBus .sup [1] (onBusState .bus1 .held (some .tst) none Hw.reset) = [0x29, 7, 0]
    ∧ reply (.forceRelease .sup [1]) .forceRelease .sup [1] (onBusState .bus1 .selecting (some .tst) (some 23) Hw.reset)
        = [0x2C, 0, 2, 0, 255]
    ∧ reply (.forceRelease .sup [1]) .forceRelease .sup [1] (onBusState .bus1 .ready (some .tst) (some 23)
        { Hw.reset with relay := { Hw.reset.relay with
            pairs := Hw.reset.relay.pairs.set 23 ⟨.bus1, false, .bus1, .none, none⟩ } }) = [0x2C, 0, 2, 5, 255]
    ∧ (resultOf (after (.forceRelease .sup [1]) (passes .sup .forceRelease [1]
        (onBusState .bus1 .selecting (some .tst) (some 23) Hw.reset))) .bus1).error = some .preempted
    ∧ reply (.forceRelease .sup [1]) .forceRelease .sup [1] Hw.reset = [0x2C, 0, 2, 0, 255]
    ∧ reply (.forceRelease .sup [2]) .forceRelease .sup [2] Hw.reset = [0x2C, 5, 0]
    ∧ reply (.releaseBus .sup []) .releaseBus .sup [] Hw.reset = [0x29, 4, 0] := by
  refine ⟨waits_passes _ _ _ _ rfl, waits_passes _ _ _ _ rfl, pairsGood_reset, ?_⟩
  decide +kernel

/-- FORCE RELEASE posts ABORTED for a command and none for a selection; RELEASE BUS posts it for neither. -/
theorem test_ReleaseCommandsPassBusOn_events :
    (listening selecting).pairsGood ∧ (busRecord (listening selecting) .bus1).coherent
    ∧ (after (.forceRelease .sup [1]) (passes .sup .forceRelease [1] (listening selecting))).flag .sup (busGroup .bus1) 5 = true
    ∧ (after (.forceRelease .sup [1]) (passes .sup .forceRelease [1] (listening selecting))).flag .sup (busGroup .bus1) 2 = false
    ∧ (after (.forceRelease .sup [1]) (passes .sup .forceRelease [1] (listening measuring))).flag .sup (busGroup .bus1) 2 = true
    ∧ (after (.releaseBus .tst [1]) (passes .tst .releaseBus [1] (listening measuring))).flag .sup (busGroup .bus1) 2 = false
    ∧ (resultOf (after (.releaseBus .tst [1]) (passes .tst .releaseBus [1] measuring)) .bus1).error = some .stopped := by
  refine ⟨pairsGood_reset, coherent_records.2.1, ?_⟩
  decide +kernel

/-- Bus 1 is held by port TST, mains is present, and pair 23 is in service with an activity. -/
def selectable (ago : Seconds) : Hw :=
  onBusState .bus1 .held (some .tst) none { serving 23 0 1 Hw.reset with
    seconds := 100
    power := { (serving 23 0 1 Hw.reset).power with mode := .mains }
    line := { (serving 23 0 1 Hw.reset).line with activity := Hw.reset.line.activity.set 23 (some (100 - ago)) } }

/-- An activity 9 and 10 seconds ago, forced or not; a version that agrees and one that does not. -/
theorem test_SelectPairPutsPairOnBus :
    Waits (passes .tst .selectPair [1, 23, 0, 0, 0] (selectable 10)) .tst .selectPair [1, 23, 0, 0, 0]
    ∧ expected [1, 23, 0, 0, 0] 3 = some 0
    ∧ reply (.selectPair .tst [1, 23]) .selectPair .tst [1, 23] (selectable 9) = [0x2A, 9, 0]
    ∧ reply (.selectPair .tst [1, 23]) .selectPair .tst [1, 23] (selectable 10) = [0x2A, 1, 2, 0, 1]
    ∧ reply (.selectPair .tst [1, 23, 1]) .selectPair .tst [1, 23, 1] (selectable 9) = [0x2A, 1, 2, 0, 1]
    ∧ reply (.selectPair .tst [1, 23, 0, 0, 0]) .selectPair .tst [1, 23, 0, 0, 0] (selectable 10) = [0x2A, 1, 2, 0, 1]
    ∧ reply (.selectPair .tst [1, 23, 0, 0, 1]) .selectPair .tst [1, 23, 0, 0, 1] (selectable 10) = [0x2A, 6, 2, 0, 0]
    ∧ reply (.selectPair .sup [1, 23]) .selectPair .sup [1, 23] (selectable 10) = [0x2A, 7, 0]
    ∧ reply (.selectPair .tst [1]) .selectPair .tst [1] (selectable 10) = [0x2A, 4, 0]
    ∧ reply (.selectPair .tst [1, 23, 0, 0]) .selectPair .tst [1, 23, 0, 0] (selectable 10) = [0x2A, 4, 0]
    ∧ reply (.selectPair .tst [2, 23]) .selectPair .tst [2, 23] (selectable 10) = [0x2A, 5, 0]
    ∧ reply (.selectPair .tst [1, 24]) .selectPair .tst [1, 24] (selectable 10) = [0x2A, 5, 0]
    ∧ reply (.selectPair .tst [1, 23, 2]) .selectPair .tst [1, 23, 2] (selectable 10) = [0x2A, 5, 0]
    ∧ reply (.selectPair .tst [1, 23]) .selectPair .tst [1, 23] (poisonedAt 23 (selectable 10)) = [0x2A, 14, 0]
    ∧ reply (.selectPair .tst [1, 23]) .selectPair .tst [1, 23] (onBusState .bus1 .held (some .tst) none Hw.reset)
        = [0x2A, 13, 0] := by
  refine ⟨waits_passes _ _ _ _ rfl, ?_⟩
  decide +kernel

/-- The first word with one upset bit, and with two that the read finds. -/
theorem test_SelectPairPutsPairOnBus_read :
    firstWordRead (upsetWord 69 (.single 5) (selectable 10)) (counted (selectable 10)) 23
    ∧ foundPoisoned (upsetWord 69 (.double 0 0) (selectable 10)) 23
    ∧ reply (.selectPair .tst [1, 23]) .selectPair .tst [1, 23] (upsetWord 69 (.single 5) (selectable 10)) = [0x2A, 1, 2, 0, 1]
    ∧ (after (.selectPair .tst [1, 23]) (passes .tst .selectPair [1, 23]
        (upsetWord 69 (.single 5) (selectable 10)))).integ.corrections = 1
    ∧ reply (.selectPair .tst [1, 23]) .selectPair .tst [1, 23] (upsetWord 69 (.double 0 0) (selectable 10)) = [0x2A, 14, 0]
    ∧ isPoisoned (after (.selectPair .tst [1, 23]) (passes .tst .selectPair [1, 23]
        (upsetWord 69 (.double 0 0) (selectable 10)))) 23 = true
    ∧ reply (.provision .trk [23, 2, 15, 0, 1]) .provision .trk [23, 2, 15, 0, 1] (upsetWord 69 (.single 5) Hw.reset)
        = [3, 6, 2, 0, 0]
    ∧ (after (.provision .trk [23, 2, 15, 0, 1]) (passes .trk .provision [23, 2, 15, 0, 1]
        (upsetWord 69 (.single 5) Hw.reset))).integ.corrections = 1 := by
  refine ⟨.inr (.inl ⟨⟨5, by decide +kernel⟩, by decide +kernel⟩), ?_, ?_⟩
  · unfold foundPoisoned; decide +kernel
  · decide +kernel

theorem test_DeselectionAndBusTimers :
    Waits (passes .tst .deselect [1] (onBusState .bus1 .ready (some .tst) (some 23) Hw.reset)) .tst .deselect [1]
    ∧ Hw.reset.pairsGood
    ∧ reply (.deselect .tst [1]) .deselect .tst [1] (onBusState .bus1 .ready (some .tst) (some 23) Hw.reset)
        = [0x2B, 0, 1, 1]
    ∧ reply (.deselect .tst [1]) .deselect .tst [1] (onBusState .bus1 .held (some .tst) none Hw.reset) = [0x2B, 11, 0]
    ∧ reply (.deselect .tst [1]) .deselect .tst [1] (onBusState .bus1 .busy (some .tst) (some 23) Hw.reset) = [0x2B, 2, 0]
    ∧ reply (.deselect .sup [1]) .deselect .sup [1] (onBusState .bus1 .held (some .tst) none Hw.reset) = [0x2B, 7, 0]
    ∧ reply (.deselect .tst []) .deselect .tst [] ready = [0x2B, 4, 0]
    ∧ reply (.deselect .tst [2]) .deselect .tst [2] ready = [0x2B, 5, 0]
    ∧ busRecord (after (.leaseExpiry .bus1) (alone contended)) .bus1 = ⟨.held, some .sup, [], none, none, some 120000, none⟩
    ∧ (busRecord (after (.holdExpiry .bus1) (alone
        (setBus .bus1 ⟨.ready, some .tst, [], some 23, none, some 9, some 0⟩ Hw.reset))) .bus1).state = .held
    ∧ busRecord (after (.leaseExpiry .bus1) (alone
        (setBus .bus1 ⟨.held, some .tst, [], none, none, some 0, none⟩ Hw.reset))) .bus1 = .reset
    ∧ after (.leaseExpiry .bus1) State.reset = Hw.reset ∧ after (.holdExpiry .bus1) State.reset = Hw.reset := by
  refine ⟨waits_passes _ _ _ _ rfl, pairsGood_reset, ?_⟩
  decide +kernel

/-- A pair that is selected, deselected or released changes once, and its move waits in the relay queue. -/
theorem test_SelectPairPutsPairOnBus_move :
    (selectable 10).relay.queueGood
    ∧ (after (.selectPair .tst [1, 23]) (passes .tst .selectPair [1, 23] (selectable 10))).relay.asked 23 .bus1 .testBus
    ∧ (selectable 10).recordsStepped (after (.selectPair .tst [1, 23]) (passes .tst .selectPair [1, 23] (selectable 10)))
        (fun m => m == 23)
    ∧ ready.relay.queueGood
    ∧ (after (.deselect .tst [1]) (passes .tst .deselect [1] ready)).relay.asked 23 .through .testBus
    ∧ ready.recordsStepped (after (.deselect .tst [1]) (passes .tst .deselect [1] ready)) (fun m => m == 23)
    ∧ (after (.forceRelease .sup [1]) (passes .sup .forceRelease [1] selecting)).relay.asked 23 .through .testBus
    ∧ selecting.recordsStepped (after (.forceRelease .sup [1]) (passes .sup .forceRelease [1] selecting)) (fun m => m == 23)
    ∧ (resultOf measuring .bus1).command = some .measure
    ∧ (storedPair (after (.releaseBus .tst [1]) (passes .tst .releaseBus [1] measuring)) 23).second
        = ⟨⟨.error, none⟩, .none⟩ := by
  refine ⟨?_, ?_⟩
  · unfold Relay.queueGood Relay.entries
    decide +kernel
  · unfold Hw.recordsStepped Hw.recordAfter Relay.asked Relay.queueGood Relay.entries
    decide +kernel

/-- Pair 23 stands at bus 1, at rest or moving away in slot 3; or it waits to leave, every slot taken. -/
def standing (away : Bool) : Hw :=
  let h := listening (selectable 10)
  { h with relay := { h.relay with
      pairs := h.relay.pairs.set 23 ⟨.bus1, away, if away then .through else .bus1, .none, none⟩
      slots := if away then (Vector.replicate 4 none).set 3 (some ⟨23, .through, .testBus, 9⟩) else Vector.replicate 4 none
      normalSection := [] } }

def waiting : Hw :=
  { standing false with relay := { (standing false).relay with
      slots := Vector.replicate 4 (some ⟨0, .through, .relayUnit, 9⟩)
      normalSection := [⟨23, .through, .testBus⟩] } }

/-- A selection of a pair that stands at its bus: READY at once, or SELECTING while the relay moves away or an entry waits. -/
theorem test_SelectPairPutsPairOnBus_standing :
    ¬ (standing false).relay.waits 23 ∧ waiting.relay.waits 23 ∧ (∀ i : SlotIx, waiting.relay.slots[i].isSome = true)
    ∧ reply (.selectPair .tst [1, 23]) .selectPair .tst [1, 23] (standing false) = [0x2A, 1, 2, 0, 1]
    ∧ busRecord (after (.selectPair .tst [1, 23]) (passes .tst .selectPair [1, 23] (standing false))) .bus1
        = ⟨.ready, some .tst, [], some 23, none, some 120000, some 10000⟩
    ∧ (resultOf (after (.selectPair .tst [1, 23]) (passes .tst .selectPair [1, 23] (standing false))) .bus1).status = .done
    ∧ (after (.selectPair .tst [1, 23]) (passes .tst .selectPair [1, 23] (standing false))).flag .sup (busGroup .bus1) 1 = true
    ∧ (standing false).recordsStepped (after (.selectPair .tst [1, 23]) (passes .tst .selectPair [1, 23] (standing false)))
        (fun m => m == 23)
    ∧ (busRecord (after (.selectPair .tst [1, 23]) (passes .tst .selectPair [1, 23] (standing true))) .bus1).state = .selecting
    ∧ (busRecord (after (.selectPair .tst [1, 23]) (passes .tst .selectPair [1, 23] waiting)) .bus1).state = .selecting
    ∧ (after (.selectPair .tst [1, 23]) (passes .tst .selectPair [1, 23] waiting)).relay.asked 23 .bus1 .testBus := by
  unfold Hw.recordsStepped Hw.recordAfter Relay.asked Relay.waits Relay.entries
  decide +kernel

theorem test_BusReadsAnswerRecords :
    Waits (passes .sup .readBus [1] Hw.reset) .sup .readBus [1]
    ∧ Waits (passes .sup .readResult [1] Hw.reset) .sup .readResult [1]
    ∧ reply (.readBus .sup [1]) .readBus .sup [1] (setBus .bus1 ⟨.held, some .tst, [.sup, .trk], none, none, some 120000, none⟩ Hw.reset)
        = [0x2E, 0, 15, 1, 2, 2, 0, 1, 255, 255, 1, 0xD4, 0xC0, 0, 0, 120, 10, 10]
    ∧ reply (.readResult .sup [1]) .readResult .sup [1] Hw.reset
        = [0x34, 0, 26, 0, 255, 0, 0, 0, 255, 255, 0, 0, 0, 0, 0, 0, 0, 0, 0, 0, 0, 0, 0, 0, 0, 0, 0, 0, 0]
    ∧ reply (.readBus .sup [2]) .readBus .sup [2] Hw.reset = [0x2E, 5, 0]
    ∧ reply (.readResult .sup []) .readResult .sup [] Hw.reset = [0x34, 4, 0] := by
  refine ⟨waits_passes _ _ _ _ rfl, waits_passes _ _ _ _ rfl, ?_⟩
  decide +kernel

/-! ### Measurements -/

/-- Sets 1 and 7, profile 15, durations 1 and 600; each state of the bus. -/
theorem test_BusGatesAndStopsTestCommands :
    testArgs .measure [1] .bus1 ∧ testArgs .measure [1, 7] .bus1 ∧ testArgs .verify [1, 15] .bus1
    ∧ testArgs .tone [1, 0, 1] .bus1 ∧ testArgs .tone [1, 2, 88] .bus1 ∧ testArgs .stop [1] .bus1
    ∧ Waits (passes .tst .stop [1] measuring) .tst .stop [1] ∧ measuring.undamaged 23
    ∧ fifoPlace measuring .bus1 ≠ 0 ∧ (resultOf measuring .bus1).pair = some 23
    ∧ reply (.measure .sup [1, 7]) .measure .sup [1, 7] ready = [0x30, 7, 0]
    ∧ reply (.verify .tst [1, 15]) .verify .tst [1, 15] (onBusState .bus1 .held (some .tst) none Hw.reset) = [0x31, 11, 0]
    ∧ reply (.tone .tst [1, 2, 88]) .tone .tst [1, 2, 88] measuring = [0x32, 2, 0]
    ∧ reply (.stop .tst [1]) .stop .tst [1] (onBusState .bus1 .deselecting (some .tst) none Hw.reset) = [0x33, 2, 0]
    ∧ reply (.stop .tst [1]) .stop .tst [1] ready = [0x33, 0, 0]
    ∧ reply (.stop .tst []) .stop .tst [] ready = [0x33, 4, 0]
    ∧ reply (.stop .tst [2]) .stop .tst [2] ready = [0x33, 5, 0]
    ∧ reply (.stop .tst [1]) .stop .tst [1] measuring = [0x33, 0, 2, 3, 5]
    ∧ (busRecord (after (.stop .tst [1]) (passes .tst .stop [1] measuring)) .bus1).state = .ready := by
  refine ⟨⟨[], rfl, .inl rfl⟩, ⟨[7], rfl, .inr ⟨7, rfl, by decide, by decide⟩⟩, ⟨15, [], rfl, by decide⟩,
    ⟨0, 1, [], rfl, by decide, by decide⟩, ⟨2, 88, [], rfl, by decide, by decide⟩, ⟨[], rfl⟩, waits_passes _ _ _ _ rfl,
    by unfold Hw.undamaged; decide +kernel, ?_⟩
  decide +kernel

/-- The front request leaves and the next starts its FOREIGN stage: by STOP, RELEASE BUS, a port clear, a surge, a poison
abort and a word of the pair that cannot be read; and the request that waits leaves, the front going on. -/
theorem test_BusGatesAndStopsTestCommands_next :
    (busRecord queued .bus0).coherent ∧ (busRecord queued .bus1).coherent
    ∧ queued.meas.fifo.head?.map TestRequest.bus = some .bus1
    ∧ atStage .bus0 40 (some (.bus0, .foreign)) (after (.stop .tst [1]) (passes .tst .stop [1] queued)) = true
    ∧ atStage .bus0 40 (some (.bus0, .foreign)) (after (.releaseBus .tst [1]) (passes .tst .releaseBus [1] queued)) = true
    ∧ atStage .bus0 40 (some (.bus0, .foreign)) (after (.portClear .tst) (alone queued)) = true
    ∧ atStage .bus0 40 (some (.bus0, .foreign)) (surgeAbort 23 queued) = true
    ∧ atStage .bus0 40 (some (.bus0, .foreign)) (takeRequest (.poisonAbort 23) queued) = true
    ∧ atStage .bus0 40 (some (.bus0, .foreign)) (scrubbed 69 queued) = true
    ∧ atStage .bus1 0 none (after (.stop .sup [0]) (passes .sup .stop [0] queued)) = true := by
  refine ⟨?_, ?_, ?_⟩
  · unfold BusRecord.coherent; decide +kernel
  · unfold BusRecord.coherent; decide +kernel
  · decide +kernel

theorem pairsGood_queued : queued.pairsGood := pairsGood_reset

/-- The summary of a MEASURE that STOP ends, and the same summary written again: a step, and none. -/
theorem test_BusGatesAndStopsTestCommands_summary :
    storedPair (after (.stop .tst [1]) (passes .tst .stop [1] measuring)) 23 = afterSummary measuring 23 .error none
    ∧ afterSummary measuring 23 .error none
        = ⟨⟨⟨.disabled, 3, 1, 1⟩, .none⟩, ⟨⟨.error, none⟩, .none⟩, ⟨0, .none⟩⟩
    ∧ (storedPair (after (.stop .tst [1]) (passes .tst .stop [1]
        (setStored 23 ⟨⟨⟨.disabled, 3, 1, 7⟩, .none⟩, ⟨⟨.error, none⟩, .none⟩, ⟨0, .none⟩⟩ measuring))) 23).first.val.version
        = 7 := by decide +kernel

theorem test_MeasureAndToneJoinFifo :
    Waits (passes .tst .measure [1, 7] ready) .tst .measure [1, 7] ∧ Waits (passes .tst .tone [1, 2, 88] ready) .tst .tone [1, 2, 88]
    ∧ reply (.measure .tst [1, 7]) .measure .tst [1, 7] ready = [0x30, 1, 1, 1]
    ∧ reply (.measure .tst [1, 8]) .measure .tst [1, 8] ready = [0x30, 5, 0]
    ∧ reply (.measure .tst [1, 0]) .measure .tst [1, 0] ready = [0x30, 5, 0]
    ∧ reply (.measure .tst [1]) .measure .tst [1] (poisonedAt 23 ready) = [0x30, 14, 0]
    ∧ reply (.tone .tst [1, 2, 88]) .tone .tst [1, 2, 88] ready = [0x32, 1, 1, 1]
    ∧ reply (.tone .tst [1, 2, 89]) .tone .tst [1, 2, 89] ready = [0x32, 5, 0]
    ∧ reply (.tone .tst [1, 0, 0]) .tone .tst [1, 0, 0] ready = [0x32, 5, 0]
    ∧ reply (.tone .tst [1, 0]) .tone .tst [1, 0] ready = [0x32, 4, 0]
    ∧ (after (.measure .tst [1, 7]) (passes .tst .measure [1, 7] ready)).meas
        = (acceptedRequest ready .bus1 ⟨.bus1, 23, .measure, ⟨true, true, true⟩⟩
            (opened .measure 23 ⟨true, true, true⟩ none)).meas := by
  refine ⟨waits_passes _ _ _ _ rfl, waits_passes _ _ _ _ rfl, ?_⟩
  decide +kernel

/-- Channel 3 in effect for profile 15, poisoned or not. -/
def overlaid (st : ChannelState) (poisoned : Bool) (h : Hw) : Hw :=
  setChannel 3 ⟨st, poisoned, .fresh (some 15), .fresh ⟨⟨true, false, false⟩, 10, 0⟩, .fresh ⟨0, 0, 10, 15⟩⟩ h

theorem channelsGood_overlaid (st : ChannelState) (poisoned : Bool) : (overlaid st poisoned ready).channelsGood := by
  intro c _
  match c with
  | 0 | 1 | 2 | 3 => exact ⟨rfl, rfl, rfl⟩

/-- Channel 3 poisoned, with two upset bits in its target word, as a read of it leaves it. -/
def spoiled (st : ChannelState) : Hw := upsetWord 4370 (.double 0 0) (overlaid st true ready)

theorem channelsGood_spoiled (st : ChannelState) : (spoiled st).channelsGood := by
  intro c hc
  match c with
  | 0 | 1 | 2 => exact ⟨rfl, rfl, rfl⟩
  | 3 => cases hc

/-- The ROM record, an overlay, and a lookup that a poisoned channel ends. -/
theorem test_VerifyLooksUpProfile :
    Waits (passes .tst .verify [1, 15] ready) .tst .verify [1, 15] ∧ ready.undamaged 23
    ∧ (overlaid .free false ready).channelsGood
    ∧ effective (overlaid .free false ready) 15 (some (profileRom 15, .rom))
    ∧ effective (overlaid .armed false ready) 15 (some (⟨⟨⟨true, false, false⟩, 10, 0⟩, ⟨0, 0, 10, 15⟩⟩, .channel 3))
    ∧ effective (overlaid .clearing true ready) 15 none
    ∧ reply (.verify .tst [1, 15]) .verify .tst [1, 15] ready = [0x31, 1, 1, 1]
    ∧ reply (.verify .tst [1]) .verify .tst [1] ready = [0x31, 4, 0]
    ∧ reply (.verify .tst [1, 16]) .verify .tst [1, 16] ready = [0x31, 5, 0]
    ∧ reply (.verify .tst [2, 15]) .verify .tst [2, 15] ready = [0x31, 5, 0]
    ∧ (resultOf (after (.verify .tst [1, 15]) (passes .tst .verify [1, 15] (overlaid .armed false ready))) .bus1).profile
        = some (15, .channel 3)
    ∧ reply (.verify .tst [1, 15]) .verify .tst [1, 15] (overlaid .clearing true ready) = [0x31, 0, 2, 3, 7]
    ∧ (storedPair (after (.verify .tst [1, 15]) (passes .tst .verify [1, 15] (overlaid .clearing true ready))) 23).second
        = .fresh ⟨.error, some 15⟩ := by
  refine ⟨waits_passes _ _ _ _ rfl, by unfold Hw.undamaged; decide +kernel, channelsGood_overlaid _ _,
    .inr (.inr ⟨by decide +kernel, by decide +kernel, rfl⟩), .inl ⟨3, by decide +kernel, by decide +kernel, by decide +kernel⟩,
    .inr (.inl ⟨by decide +kernel, ⟨3, by decide +kernel⟩, rfl⟩), ?_⟩
  decide +kernel

/-- A lookup that a poisoned channel ends, its target word damaged. -/
theorem test_VerifyLooksUpProfile_poisoned :
    (spoiled .clearing).channelsGood ∧ effective (spoiled .clearing) 15 none
    ∧ reply (.verify .tst [1, 15]) .verify .tst [1, 15] (spoiled .clearing) = [0x31, 0, 2, 3, 7]
    ∧ reply (.readProfile .tst [15]) .readProfile .tst [15] (spoiled .armed)
        = [0x35, 0, 17, 0xFE, 0, 0, 0, 0, 0, 0, 0, 0, 0, 255, 0, 255, 0, 255, 6, 0xFE] := by
  refine ⟨channelsGood_spoiled _, .inr (.inl ⟨by decide +kernel, ⟨3, by decide +kernel⟩, rfl⟩), ?_⟩
  decide +kernel

/-! ### Settings -/

/-- Both ends of every range, and their neighbours outside. -/
theorem test_SettingsAndAcknowledgements :
    Waits (passes .sup .setRelayTiming [30, 255] Hw.reset) .sup .setRelayTiming [30, 255]
    ∧ given [30, 255] 0 2 30 30 30 ∧ given [30, 255] 1 0 255 60 255 ∧ given [] 0 2 30 30 30 ∧ outside [31] 0 2 30
    ∧ outside [1] 0 2 30
    ∧ reply (.setRelayTiming .sup [2, 0]) .setRelayTiming .sup [2, 0] Hw.reset = [0x22, 0, 2, 2, 0]
    ∧ reply (.setRelayTiming .sup [31, 0]) .setRelayTiming .sup [31, 0] Hw.reset = [0x22, 5, 0]
    ∧ reply (.setBusTiming .sup [10, 60, 1]) .setBusTiming .sup [10, 60, 1] Hw.reset = [0x2D, 0, 3, 10, 60, 1]
    ∧ reply (.setBusTiming .sup [9]) .setBusTiming .sup [9] Hw.reset = [0x2D, 5, 0]
    ∧ reply (.setBusTiming .sup [10, 61]) .setBusTiming .sup [10, 61] Hw.reset = [0x2D, 5, 0]
    ∧ reply (.setPowerPolicy .sup [0, 255, 60]) .setPowerPolicy .sup [0, 255, 60] Hw.reset = [0x48, 0, 3, 0, 255, 60]
    ∧ reply (.setPowerPolicy .sup [0, 255, 0]) .setPowerPolicy .sup [0, 255, 0] Hw.reset = [0x48, 5, 0]
    ∧ reply (.setScrub .sup []) .setScrub .sup [] Hw.reset = [0x53, 0, 5, 1, 0, 0, 0, 0]
    ∧ (after (.setScrub .sup [0]) (passes .sup .setScrub [0] Hw.reset)).integ.scrubTimer = none
    ∧ reply (.ackFault .sup []) .ackFault .sup [] Hw.reset = [0x51, 0, 0]
    ∧ reply (.ackFault .sup []) .ackFault .sup [] { Hw.reset with integ := { Hw.reset.integ with
        pending := some ⟨4372, 7⟩, gate := .inPass } } = [0x51, 2, 1, 2]
    ∧ reply (.ackFault .sup []) .ackFault .sup [] { Hw.reset with integ := { Hw.reset.integ with
        pending := some ⟨4372, 7⟩, gate := .satisfied } } = [0x51, 0, 7, 5, 0x11, 0x14, 0, 0, 0, 7]
    ∧ reply (.clearCorrections .sup []) .clearCorrections .sup [] { Hw.reset with integ := { Hw.reset.integ with
        corrections := 255 } } = [0x55, 0, 1, 255] := by
  refine ⟨waits_passes _ _ _ _ rfl, .inr ⟨30, rfl, rfl, by decide, by decide⟩, .inr ⟨255, rfl, rfl, by decide, by decide⟩,
    .inl ⟨rfl, rfl⟩, ⟨31, rfl, .inr (by decide)⟩, ⟨1, rfl, .inl (by decide)⟩, ?_⟩
  decide +kernel

/-! ### Overlay channels and table RAM -/

theorem test_OverlayOpenAndWriteLoadChannel :
    Waits (passes .sup .overlayOpen [3] Hw.reset) .sup .overlayOpen [3]
    ∧ reply (.overlayOpen .sup [3]) .overlayOpen .sup [3] Hw.reset = [0x38, 0, 3, 1, 255, 0]
    ∧ reply (.overlayOpen .sup [4]) .overlayOpen .sup [4] Hw.reset = [0x38, 5, 0]
    ∧ reply (.overlayOpen .sup [3]) .overlayOpen .sup [3] (overlaid .armed false Hw.reset) = [0x38, 2, 0]
    ∧ reply (.overlayWrite .sup [3, 15, 7, 255, 1, 2, 9, 9, 60, 15]) .overlayWrite .sup [3, 15, 7, 255, 1, 2, 9, 9, 60, 15]
        (overlaid .loading true Hw.reset) = [0x39, 0, 3, 1, 15, 0]
    ∧ reply (.overlayWrite .sup [3, 15, 8, 255, 1, 2, 9, 9, 60, 15]) .overlayWrite .sup [3, 15, 8, 255, 1, 2, 9, 9, 60, 15]
        (overlaid .loading true Hw.reset) = [0x39, 5, 0]
    ∧ reply (.overlayWrite .sup [3, 15, 7, 255, 1, 2, 10, 9, 60, 15]) .overlayWrite .sup [3, 15, 7, 255, 1, 2, 10, 9, 60, 15]
        (overlaid .loading true Hw.reset) = [0x39, 5, 0]
    ∧ reply (.overlayWrite .sup [3, 15, 7, 255, 1, 2, 9, 9, 60, 14]) .overlayWrite .sup [3, 15, 7, 255, 1, 2, 9, 9, 60, 14]
        (overlaid .loading true Hw.reset) = [0x39, 5, 0]
    ∧ reply (.overlayWrite .sup [3, 15, 7, 255, 1, 2, 9, 9, 60]) .overlayWrite .sup [3, 15, 7, 255, 1, 2, 9, 9, 60]
        (overlaid .loading true Hw.reset) = [0x39, 4, 0]
    ∧ reply (.overlayWrite .sup [3, 15, 7, 255, 1, 2, 9, 9, 60, 15]) .overlayWrite .sup [3, 15, 7, 255, 1, 2, 9, 9, 60, 15]
        Hw.reset = [0x39, 2, 0] := by
  refine ⟨waits_passes _ _ _ _ rfl, ?_⟩
  decide +kernel

/-- Channel 0 in effect for profile 15 beside channel 3. -/
def rival (st : ChannelState) (poisoned : Bool) (h : Hw) : Hw :=
  setChannel 0 ⟨st, poisoned, .fresh (some 15), .fresh ⟨⟨true, false, false⟩, 10, 0⟩, .fresh ⟨0, 0, 10, 15⟩⟩ h

theorem test_OverlayArmRetireAndCloseMoveChannel :
    Waits (passes .sup .overlayArm [3] (overlaid .loading false ready)) .sup .overlayArm [3]
    ∧ (overlaid .loading false ready).channelsGood ∧ (overlaid .loading true ready).channelsGood
    ∧ (channelOf (upsetWord 4370 (.double 0 0) (overlaid .loading false ready)) 3).target.upset.outcome = .uncorrectable
    ∧ reply (.overlayArm .sup [3]) .overlayArm .sup [3] (overlaid .loading false ready) = [0x3A, 0, 2, 2, 15]
    ∧ reply (.overlayArm .sup [3]) .overlayArm .sup [3] (upsetWord 4370 (.double 0 0) (overlaid .loading false ready))
        = [0x3A, 14, 0]
    ∧ reply (.overlayArm .sup [3]) .overlayArm .sup [3] (overlaid .loading true ready) = [0x3A, 14, 0]
    ∧ reply (.overlayArm .sup [3]) .overlayArm .sup [3] (rival .clearing false (overlaid .loading false ready)) = [0x3A, 12, 0]
    ∧ reply (.overlayArm .sup [3]) .overlayArm .sup [3] (rival .armed true (overlaid .loading false ready)) = [0x3A, 12, 0]
    ∧ reply (.overlayArm .sup [3]) .overlayArm .sup [3] (rival .free true (overlaid .loading false ready)) = [0x3A, 0, 2, 2, 15]
    ∧ reply (.overlayArm .sup [0]) .overlayArm .sup [0] ready = [0x3A, 2, 0]
    ∧ reply (.overlayRetire .sup [3]) .overlayRetire .sup [3] (overlaid .armed true ready) = [0x3B, 0, 2, 3, 0xFE]
    ∧ reply (.overlayRetire .sup [3]) .overlayRetire .sup [3] (overlaid .clearing false ready) = [0x3B, 2, 0]
    ∧ reply (.overlayClose .sup [3]) .overlayClose .sup [3] (overlaid .clearing false ready) = [0x3C, 0, 2, 0, 15]
    ∧ reply (.overlayClose .sup [4]) .overlayClose .sup [4] ready = [0x3C, 5, 0] := by
  refine ⟨waits_passes _ _ _ _ rfl, channelsGood_overlaid _ _, channelsGood_overlaid _ _, ?_⟩
  decide +kernel

/-- One upset bit in the target word of the channel, at the sixteenth correction and with no target, and in that of another
channel in effect for profile 14. -/
theorem test_OverlayArmRetireAndCloseMoveChannel_corrected :
    targetWordRead (upsetWord 4370 (.single 5) (overlaid .loading false ready)) (counted (overlaid .loading false ready)) 3
    ∧ reply (.overlayArm .sup [3]) .overlayArm .sup [3] (upsetWord 4370 (.single 5) (overlaid .loading false ready))
        = [0x3A, 0, 2, 2, 15]
    ∧ (after (.overlayArm .sup [3]) (passes .sup .overlayArm [3] (upsetWord 4370 (.single 5)
        (listening (overlaid .loading false { ready with integ := { ready.integ with corrections := 15 } }))))).flag .sup 0 2
        = true
    ∧ reply (.overlayArm .sup [0]) .overlayArm .sup [0] (upsetWord 4361 (.single 5) ready) = [0x3A, 2, 0]
    ∧ reply (.overlayArm .sup [3]) .overlayArm .sup [3] (upsetWord 4361 (.single 5)
        (setChannel 0 ⟨.armed, false, .fresh (some 14), .fresh ⟨⟨true, false, false⟩, 10, 0⟩, .fresh ⟨0, 0, 10, 14⟩⟩
          (overlaid .loading false ready))) = [0x3A, 0, 2, 2, 15] := by
  refine ⟨.inr ⟨⟨5, by decide +kernel⟩, by decide +kernel⟩, ?_⟩
  decide +kernel

/-- The channel poisoned already, and another channel in effect that is poisoned, or found so, by a damaged target word. -/
theorem test_OverlayArmRetireAndCloseMoveChannel_poisoned :
    Waits (passes .sup .overlayArm [3] (spoiled .loading)) .sup .overlayArm [3]
    ∧ (channelOf (spoiled .loading) 3).target.upset.outcome = .uncorrectable
    ∧ reply (.overlayArm .sup [3]) .overlayArm .sup [3] (spoiled .loading) = [0x3A, 14, 0]
    ∧ (after (.overlayArm .sup [3]) (passes .sup .overlayArm [3] (spoiled .loading))).integ = (spoiled .loading).integ
    ∧ reply (.overlayArm .sup [3]) .overlayArm .sup [3]
        (upsetWord 4361 (.double 0 0) (rival .armed true (overlaid .loading false ready))) = [0x3A, 12, 0]
    ∧ (after (.overlayArm .sup [3]) (passes .sup .overlayArm [3]
        (upsetWord 4361 (.double 0 0) (rival .armed true (overlaid .loading false ready))))).integ.pending = none
    ∧ reply (.overlayArm .sup [3]) .overlayArm .sup [3]
        (upsetWord 4361 (.double 0 0) (rival .armed false (overlaid .loading false ready))) = [0x3A, 12, 0]
    ∧ (after (.overlayArm .sup [3]) (passes .sup .overlayArm [3]
        (upsetWord 4361 (.double 0 0) (rival .armed false (overlaid .loading false ready))))).integ.pending = some ⟨4361, 0⟩ := by
  refine ⟨waits_passes _ _ _ _ rfl, ?_⟩
  decide +kernel

/-- The last word as it stands, with one bit upset and with two; the last pair word with two, a record pending or not. -/
theorem test_ProfileAndTableReadsCheckWords :
    Waits (passes .sup .tableRead [0x11, 0x14] Hw.reset) .sup .tableRead [0x11, 0x14]
    ∧ expected [0x11, 0x14] 0 = some 4372 ∧ wordUpset Hw.reset 4372 = .none
    ∧ wordUpset (upsetWord 4372 (.single 38) Hw.reset) 4372 = .single 38
    ∧ wordUpset (upsetWord 71 (.double 38 37) Hw.reset) 71 = .double 38 37
    ∧ (after (.tableRead .sup [0x11, 0x14]) (passes .sup .tableRead [0x11, 0x14]
        (upsetWord 4372 (.single 38) Hw.reset))).integ.corrections = 1
    ∧ isPoisoned (after (.tableRead .sup [0, 71]) (passes .sup .tableRead [0, 71]
        (upsetWord 71 (.double 38 37) Hw.reset))) 23 = true
    ∧ (after (.tableRead .sup [0, 71]) (passes .sup .tableRead [0, 71]
        (upsetWord 71 (.double 38 37) Hw.reset))).integ.pending = some ⟨71, 0⟩
    ∧ (after (.tableRead .sup [0, 71]) (passes .sup .tableRead [0, 71]
        (upsetWord 71 (.double 38 37) { Hw.reset with integ := { Hw.reset.integ with
          pending := some ⟨70, 0⟩ } }))).integ.holdCause = some (.second, ⟨71, 0⟩)
    ∧ (after (.tableRead .sup [1, 8]) (passes .sup .tableRead [1, 8]
        (upsetWord 264 (.double 0 0) Hw.reset))).integ.faultHold = true
    ∧ reply (.tableRead .sup [0x11, 0x15]) .tableRead .sup [0x11, 0x15] Hw.reset = [0x52, 5, 0]
    ∧ reply (.tableRead .sup [0x11]) .tableRead .sup [0x11] Hw.reset = [0x52, 4, 0]
    ∧ reply (.readProfile .tst [15]) .readProfile .tst [15] (overlaid .armed true ready)
        = [0x35, 0, 17, 0xFE, 0, 0, 0, 0, 0, 0, 0, 0, 0, 255, 0, 255, 0, 255, 6, 0xFE]
    ∧ reply (.readProfile .tst [15]) .readProfile .tst [15] ready
        = [0x35, 0, 17, 0, 7, 255, 0, 0, 0, 255, 255, 15, 0, 255, 0, 255, 0, 255, 0, 255]
    ∧ reply (.readProfile .tst [16]) .readProfile .tst [16] ready = [0x35, 5, 0] := by
  refine ⟨waits_passes _ _ _ _ rfl, ?_⟩
  decide +kernel

/-- The record words of channel 3 after OVERLAY OPEN and OVERLAY WRITE; the sparse tables of the part after reset; the
last GENERATION word with two upset bits, a port holding a bus. -/
theorem test_ProfileAndTableReadsCheckWords_words :
    Hw.reset.store.tablesWf
    ∧ wordData (after (.overlayOpen .sup [3]) (passes .sup .overlayOpen [3] Hw.reset)) 4372 = 0
    ∧ wordData (after (.overlayWrite .sup [3, 15, 7, 255, 1, 2, 9, 10, 60, 15]) (passes .sup .overlayWrite
        [3, 15, 7, 255, 1, 2, 9, 10, 60, 15] (overlaid .loading true Hw.reset))) 4371 = 0x07FF0102
    ∧ wordData (after (.overlayWrite .sup [3, 15, 7, 255, 1, 2, 9, 10, 60, 15]) (passes .sup .overlayWrite
        [3, 15, 7, 255, 1, 2, 9, 10, 60, 15] (overlaid .loading true Hw.reset))) 4372 = 0x090A3C0F
    ∧ wordUpset (upsetWord 264 (.double 0 0) measuring) 264 = .double 0 0
    ∧ busRecord (after (.tableRead .sup [1, 8]) (passes .sup .tableRead [1, 8] (upsetWord 264 (.double 0 0) measuring))) .bus1
        = .reset := by
  refine ⟨⟨rfl, rfl⟩, ?_⟩
  decide +kernel

/-! ### Stages and tones -/

/-- Bus 1 is BUSY with a request of pair 23 at the front of the FIFO, in a stage. -/
def testing (st : Stage) (job : TestJob) (set : MeasSet) : Hw :=
  onBusState .bus1 .busy (some .tst) (some 23) { Hw.reset with meas := { Hw.reset.meas with
    fifo := [⟨.bus1, 23, job, set⟩]
    stage := some st
    stageTimer := some 0
    results := Hw.reset.meas.results.set .bus1 (opened job.cmd 23 set none) } }

/-- At the foreign limit and above it, at 2000 nF and above it; a TONE, a next stage, a completion; a tone's end. -/
theorem test_StagesRecordReadingsAndEndRequests :
    (testing .cap .measure ⟨true, true, true⟩).meas.fifo = [⟨.bus1, 23, .measure, ⟨true, true, true⟩⟩]
    ∧ (resultOf (testing .cap .measure ⟨true, true, true⟩) .bus1).command = some .measure
    ∧ (testing .cap .measure ⟨true, true, true⟩).undamaged 23
    ∧ (after (.stageTimerExpiry ⟨60, 0, 0, 0, 0⟩) (alone (testing .foreign .measure ⟨false, true, false⟩))).meas.stage
        = some .leak
    ∧ (resultOf (after (.stageTimerExpiry ⟨61, 0, 0, 0, 0⟩) (alone (testing .foreign .measure ⟨false, true, false⟩))) .bus1).error
        = some .foreign
    ∧ (after (.stageTimerExpiry ⟨60, 0, 0, 0, 0⟩) (alone (testing .foreign (.tone 600) ⟨false, false, false⟩))).meas.tones.bus1
        = some 600000
    ∧ (resultOf (after (.stageTimerExpiry ⟨0, 0, 0, 0, 2000⟩) (alone (testing .cap .measure ⟨true, true, true⟩))) .bus1).verdict
        = .pass
    ∧ (resultOf (after (.stageTimerExpiry ⟨0, 0, 0, 0, 2001⟩) (alone (testing .cap .measure ⟨true, true, true⟩))) .bus1).error
        = some .overRange
    ∧ (resultOf (after (.stageTimerExpiry ⟨0, 1501, 0, 0, 0⟩)
        (alone (testing .loop (.verify (profileRom 0) .rom) ⟨true, false, false⟩))) .bus1).verdict = .fail
    ∧ (resultOf (after (.stageTimerExpiry ⟨0, 1500, 0, 0, 0⟩)
        (alone (testing .loop (.verify (profileRom 0) .rom) ⟨true, false, false⟩))) .bus1).verdict = .pass
    ∧ (busRecord (after (.toneExpiry .bus1) (alone { testing .foreign .measure ⟨false, false, false⟩ with
        meas := { Hw.reset.meas with
          tones := ⟨none, some 0⟩
          results := Hw.reset.meas.results.set .bus1 (opened .tone 23 ⟨false, false, false⟩ none) } })) .bus1).state = .ready
    ∧ after (.toneExpiry .bus1) State.reset = Hw.reset := by
  refine ⟨rfl, rfl, by unfold Hw.undamaged; decide +kernel, ?_⟩
  decide +kernel

/-! ### Sense inputs and power -/

theorem test_SetSenseSetsInput :
    Waits (passes .sup .setSense [11, 0, 64, 4] Hw.reset) .sup .setSense [11, 0, 64, 4]
    ∧ reply (.setSense .sup [11, 0, 64, 4]) .setSense .sup [11, 0, 64, 4] Hw.reset = [0x40, 0, 4, 0, 64, 4, 2]
    ∧ reply (.setSense .sup [11]) .setSense .sup [11] Hw.reset = [0x40, 0, 4, 1, 4, 2, 2]
    ∧ reply (.setSense .sup [12]) .setSense .sup [12] Hw.reset = [0x40, 5, 0]
    ∧ reply (.setSense .sup [11, 0, 2]) .setSense .sup [11, 0, 2] Hw.reset = [0x40, 5, 0]
    ∧ reply (.setSense .sup [11, 0, 1, 5]) .setSense .sup [11, 0, 1, 5] Hw.reset = [0x40, 5, 0]
    ∧ reply (.setSense .sup []) .setSense .sup [] Hw.reset = [0x40, 4, 0]
    ∧ reply (.setSense .sup [11, 0]) .setSense .sup [11, 0] faulted = [0x40, 15, 0]
    ∧ answerOf .trk (after (.frameByteWrite .trk 0) (alone (setPort .trk { PortUnit.reset with
        state := .collecting, frame := ⟨some 0x40, none, []⟩ } Hw.reset))) = [0x40, 3, 0] := by
  refine ⟨waits_passes _ _ _ _ rfl, ?_⟩
  decide +kernel

/-- Input i with two equal samples of a level, or none, behind it. -/
def sampled (i : SenseIx) (accepted : Level) (run : Option SampleRun) (h : Hw) : Hw :=
  setSenseInput i { h.sense[i] with accepted, run } h

/-- Every treatment of a sample, and every consumer: mains, a comparator, over-temperature, a block, the modem, none. -/
theorem test_SampleTimerAcceptsLevels :
    (after (.sampleTimerExpiry 11 true true) (alone (sampled 11 .high (some ⟨false, true⟩) Hw.reset))).sense[11].run = none
    ∧ (after (.sampleTimerExpiry 11 true true) (alone (sampled 11 .low none Hw.reset))).sense[11].run = some ⟨true, false⟩
    ∧ (after (.sampleTimerExpiry 11 true true) (alone (sampled 11 .low (some ⟨true, false⟩) Hw.reset))).sense[11].run
        = some ⟨true, true⟩
    ∧ (after (.sampleTimerExpiry 11 true true) (alone (sampled 11 .low (some ⟨true, true⟩) Hw.reset))).sense[11].accepted
        = .high
    ∧ (after (.sampleTimerExpiry 0 true true) (alone (sampled 0 .unknown (some ⟨true, true⟩) Hw.reset))).power.mode = .mains
    ∧ (after (.sampleTimerExpiry 0 true true) (alone (sampled 0 .unknown (some ⟨true, true⟩) Hw.reset))).power.floor = 1
    ∧ (after (.sampleTimerExpiry 0 true true) (alone (sampled 0 .unknown (some ⟨true, true⟩) Hw.reset))).power.stepTimer
        = some 5000
    ∧ (after (.sampleTimerExpiry 2 true true) (alone (sampled 2 .low (some ⟨true, true⟩)
        { Hw.reset with power := { Hw.reset.power with mode := .low, floor := 2 } }))).power.floor = 1
    ∧ (after (.sampleTimerExpiry 5 true true) (alone (sampled 5 .low (some ⟨true, true⟩)
        { Hw.reset with power := { Hw.reset.power with mode := .return, floor := 3 } }))).power.floor = 2
    ∧ ((after (.sampleTimerExpiry 9 true true) (alone (sampled 9 .low (some ⟨true, true⟩) Hw.reset))).relay.pairs[23]).guard
        = .surge
    ∧ (after (.sampleTimerExpiry 9 false true) (alone (sampled 9 .high (some ⟨false, true⟩) Hw.reset))).relay.guardTimers[3]
        = some 60000
    ∧ (after (.sampleTimerExpiry 10 true true) (alone (sampled 10 .low (some ⟨true, true⟩) (permitted Hw.reset)))).trunk.permitted
        = false := by decide +kernel

/-- A surge onset on the block of the pair that bus 1 measures, and of the one that it selects. -/
theorem test_SampleTimerAcceptsLevels_surge :
    (sampled 9 .low (some ⟨true, true⟩) measuring).pairsGood
    ∧ (busRecord (sampled 9 .low (some ⟨true, true⟩) measuring) .bus1).pair = some 23
    ∧ (busRecord (after (.sampleTimerExpiry 9 true true) (alone (sampled 9 .low (some ⟨true, true⟩) measuring))) .bus1).state
        = .held
    ∧ (resultOf (after (.sampleTimerExpiry 9 true true) (alone (sampled 9 .low (some ⟨true, true⟩) measuring))) .bus1).error
        = some .surge
    ∧ (resultOf (after (.sampleTimerExpiry 9 true true) (alone (sampled 9 .low (some ⟨true, true⟩) selecting))) .bus1).status
        = .aborted := by
  refine ⟨pairsGood_reset, ?_⟩
  decide +kernel

/-- A surge onset on a block of which no pair is on a bus: a guard each, and with a free slot a start. -/
theorem test_SampleTimerAcceptsLevels_records :
    (∀ (k : BusId) (n : PairIx), (busRecord surged k).pair = some n → n.val / 6 ≠ 2)
    ∧ (sampled 8 .low (some ⟨true, true⟩) surged).relay.queueGood
    ∧ (sampled 8 .low (some ⟨true, true⟩) surged).pairsGood
    ∧ (after (.sampleTimerExpiry 8 true true) (alone (sampled 8 .low (some ⟨true, true⟩) surged))).relay.asked 17 .isolated
        .relayUnit
    ∧ surged.recordsStepped (after (.sampleTimerExpiry 8 true true) (alone (sampled 8 .low (some ⟨true, true⟩) surged)))
        (fun n => n.val / 6 == 2)
    ∧ (storedPair (after (.sampleTimerExpiry 8 true true)
        (alone (sampled 8 .low (some ⟨true, true⟩) surged))) 12).first.val.version = 2 := by
  refine ⟨fun k => ?_, ?_, ?_, ?_⟩
  · cases k <;> decide +kernel
  · unfold Relay.queueGood Relay.entries
    decide +kernel
  · unfold Hw.pairsGood Hw.undamaged
    decide +kernel
  · unfold Hw.recordsStepped Hw.recordAfter Relay.asked
    decide +kernel

/-- A fall of the floor sheds pair 0: its queues are empty and its cell is free. -/
theorem test_SampleTimerAcceptsLevels_shed :
    queueEligible (pressed 2) 0 = true
    ∧ (after (.sampleTimerExpiry 2 true true) (alone (sampled 2 .low (some ⟨true, true⟩)
        { pressed 2 with power := { (pressed 2).power with mode := .low } }))).power.floor = 1
    ∧ flushedCell (after (.sampleTimerExpiry 2 true true) (alone (sampled 2 .low (some ⟨true, true⟩)
        { pressed 2 with power := { (pressed 2).power with mode := .low } }))) = (0, 0, ⟨.free 0, .none⟩, 2048)
    ∧ flushedCell (after .graceTimerExpiry (alone { pressed 2 with power := { (pressed 2).power with
        mode := .bridge, graceTimer := some 0, criticalLevel := .high } })) = (0, 0, ⟨.free 0, .none⟩, 2048) := by
  decide +kernel

theorem test_PowerTimersMoveModeAndFloor :
    stepCap .mains .low = some 4
    ∧ (after .graceTimerExpiry (alone { Hw.reset with power := { Hw.reset.power with
        mode := .bridge, graceTimer := some 0, floor := 4, lowLevel := .high } })).power.mode = .low
    ∧ (after .graceTimerExpiry (alone { Hw.reset with power := { Hw.reset.power with
        mode := .bridge, graceTimer := some 0, floor := 4, lowLevel := .high } })).power.floor = 2
    ∧ (after .restoreTimerExpiry (alone { Hw.reset with power := { Hw.reset.power with
        mode := .return, restoreTimer := some 0, floor := 3 } })).power.stepTimer = none
    ∧ (after .stepTimerExpiry (alone { Hw.reset with power := { Hw.reset.power with
        mode := .mains, stepTimer := some 0, floor := 2 } })).power.stepTimer = some 5000
    ∧ (after .stepTimerExpiry (alone { Hw.reset with power := { Hw.reset.power with
        mode := .mains, stepTimer := some 0, floor := 3 } })).power.stepTimer = none
    ∧ after .graceTimerExpiry State.reset = Hw.reset ∧ after .restoreTimerExpiry State.reset = Hw.reset
    ∧ after .stepTimerExpiry State.reset = Hw.reset := by decide +kernel

/-! ### The scrubber, RESET PART and the invariants -/


/-- The first and the last word, a stale owner word and one that is not, a word with one bit upset and with two. -/
theorem test_ScrubTimerReadsWordsInTurn :
    (after .scrubTimerExpiry (alone (scrubbing 0 .waiting Hw.reset))).integ.gate = .inPass
    ∧ (after .scrubTimerExpiry (alone (scrubbing 4372 .inPass Hw.reset))).integ
        = { Hw.reset.integ with gate := .satisfied, passCount := 1 }
    ∧ (after .scrubTimerExpiry (alone (scrubbing 265 .none { Hw.reset with
        store := { (holding (upq 0) false Hw.reset).store with owners := [(0, .fresh (.queue 0 1))] } }))).store.freeHead
        = some 0
    ∧ (after .scrubTimerExpiry (alone (scrubbing 265 .none (holding (upq 0) false Hw.reset)))).store.freeHead = some 1
    ∧ (after .scrubTimerExpiry (alone (scrubbing 71 .none (upsetWord 71 (.single 0) Hw.reset)))).integ.corrections = 1
    ∧ isPoisoned (after .scrubTimerExpiry (alone (scrubbing 71 .none (upsetWord 71 (.double 0 0) Hw.reset)))) 23 = true
    ∧ after .scrubTimerExpiry (alone { Hw.reset with integ := { Hw.reset.integ with scrubTimer := none } })
        = { Hw.reset with integ := { Hw.reset.integ with scrubTimer := none } } := by decide +kernel

/-- What a TABLE READ of the word at an index leaves, the word having two upset bits. -/
def tableRead (i : Nat) (h : Hw) : Hw :=
  let args := [BitVec.ofNat 8 (i / 256), BitVec.ofNat 8 i]
  after (.tableRead .sup args) (passes .sup .tableRead args (upsetWord i (.double 0 0) h))

/-- The first and the last word of each area but PAIR and LINK: a descriptor, whose queue breaks and clears congested; a
generation, which is not rewritten; an owner word; a channel. -/
theorem test_ScrubTimerReadsWordsInTurn_areas :
    (scrubbed 72 congestedQueue).store = { congestedQueue.store with
      descriptors := congestedQueue.store.descriptors.set (upq 0) .reset
      congested := congestedQueue.store.congested.set (upq 0) false
      generations := congestedQueue.store.generations.set (upq 0) ⟨1, .none⟩ }
    ∧ (storedPair (scrubbed 72 congestedQueue) 0).first.val.version = 1
    ∧ (scrubbed 72 congestedQueue).integ.pending = some ⟨72, 0⟩
    ∧ (tableRead 215 Hw.reset).store.generations[dnq 23] = ⟨1, .none⟩
    ∧ (scrubbed 216 Hw.reset).integ.faultHold = true ∧ (scrubbed 216 Hw.reset).integ.pending = none
    ∧ (scrubbed 264 Hw.reset).store = (upsetWord 264 (.double 0 0) Hw.reset).store
    ∧ (scrubbed 264 Hw.reset).integ.holdCause = some (.generation, ⟨264, 0⟩)
    ∧ (scrubbed 265 Hw.reset).store.owner 0 = ⟨.retired, .none⟩
    ∧ (tableRead 2312 (listening Hw.reset)).store.owner 2047 = ⟨.retired, .none⟩
    ∧ (tableRead 2312 (listening Hw.reset)).flag .sup 6 3 = true
    ∧ (channelOf (scrubbed 4361 Hw.reset) 0).poisoned = true ∧ (channelOf (scrubbed 4372 Hw.reset) 3).poisoned = true
    ∧ (scrubbed 4372 Hw.reset).integ.gate = .waiting
    ∧ (scrubbed 4372 { Hw.reset with integ := { Hw.reset.integ with pending := some ⟨0, 0⟩ } }).integ.holdCause
        = some (.second, ⟨4372, 0⟩) := by decide +kernel

/-- Bus 1 measures pair 0, which is in service with a congested queue; or it is READY with it. -/
def measuringPressed (st : BusState) : Hw :=
  onBusState .bus1 st (some .tst) (some 0) { pressed 4 with meas := { Hw.reset.meas with
    fifo := [⟨.bus1, 0, .measure, ⟨true, true, true⟩⟩]
    results := Hw.reset.meas.results.set .bus1 (opened .measure 0 ⟨true, true, true⟩ none) } }

/-- A word of pair 0 that cannot be read: its record stands, its power is held, its queues are flushed, its measurement is
ended; of a record poisoned already nothing changes; beside another error FAULT HOLD frees the bus. -/
theorem test_ScrubTimerReadsWordsInTurn_pair :
    testsPair (measuringPressed .busy) .bus1 0 ∧ atWork (measuringPressed .busy) .bus1
    ∧ ¬ testsPair (measuringPressed .ready) .bus1 0 ∧ (∀ m, m ≠ 0 → (measuringPressed .busy).undamaged m)
    ∧ isPoisoned (scrubbed 0 (measuringPressed .busy)) 0 = true
    ∧ storedPair (scrubbed 0 (measuringPressed .busy)) 0 = storedPair (upsetWord 0 (.double 0 0) (measuringPressed .busy)) 0
    ∧ (scrubbed 0 (measuringPressed .busy)).power.pairs[(0 : PairIx)] = ⟨1, .active, true, true, true⟩
    ∧ flushedCell (scrubbed 0 (measuringPressed .busy)) = (0, 0, ⟨.free 0, .none⟩, 2048)
    ∧ (tableRead 2 (measuringPressed .busy)).line.eligible[(0 : PairIx)] = false
    ∧ busRecord (tableRead 2 (measuringPressed .busy)) .bus1 = ⟨.ready, some .tst, [], some 0, none, some 120000, some 10000⟩
    ∧ (resultOf (tableRead 2 (measuringPressed .busy)) .bus1).error = some .poisoned
    ∧ busRecord (tableRead 2 (measuringPressed .ready)) .bus1 = busRecord (measuringPressed .ready) .bus1
    ∧ scrubbed 0 (poisonedAt 0 (measuringPressed .busy))
        = scrubbing 1 .none (upsetWord 0 (.double 0 0) (poisonedAt 0 (measuringPressed .busy)))
    ∧ busRecord (tableRead 0 { measuringPressed .busy with integ := { Hw.reset.integ with pending := some ⟨9, 0⟩ } }) .bus1
        = .reset := by
  refine ⟨⟨rfl, rfl, .inl rfl⟩, .inr ⟨rfl, .inl (by decide +kernel)⟩, fun h => (by cases h.2.1), ?_, ?_⟩
  · unfold Hw.undamaged
    decide +kernel
  · decide +kernel

/-- The store with another owner word of cell 0, whose link word has two upset bits. -/
def brokenLink (o : Protected Owner) (h : Hw) : Hw :=
  upsetWord 2313 (.double 0 0) { h with store := h.store.setOwner 0 o }

/-- What a scrub of the link word of cell 0 leaves, and what a TABLE READ of it leaves. -/
def scrubbedLink (h : Hw) : Store := (after .scrubTimerExpiry (alone (scrubbing 2313 .none h))).store
def readLinkOf (h : Hw) : Store := (after (.tableRead .sup [9, 9]) (passes .sup .tableRead [9, 9] h)).store

/-- The cell in a queue under its generation and under an old one, free under the free generation and under an old one,
held, retired, and with an owner word that cannot be read. -/
theorem test_ScrubTimerReadsWordsInTurn_link :
    wordUpset (brokenLink (.fresh .held) Hw.reset) 2313 = .double 0 0
    ∧ (scrubbedLink (brokenLink (.fresh (.queue 47 0)) (holding 47 false Hw.reset))).descriptors[(47 : QueueIx)]
        = ⟨⟨none, none, 0, 64, 48, 0, none⟩, .none, .none, .none⟩
    ∧ (scrubbedLink (brokenLink (.fresh (.queue 47 0)) (holding 47 false Hw.reset))).generations[(47 : QueueIx)] = ⟨1, .none⟩
    ∧ ((readLinkOf (brokenLink (.fresh (.queue 47 255)) (holding 47 false Hw.reset))).link 0).val.next = .broken
    ∧ (readLinkOf (brokenLink (.fresh (.free 0)) Hw.reset)).freeCount = 0
    ∧ (readLinkOf (brokenLink (.fresh (.free 0)) Hw.reset)).freeGeneration = ⟨1, .none⟩
    ∧ ((scrubbedLink (brokenLink (.fresh (.free 255)) Hw.reset)).link 0).val.next = .broken
    ∧ (scrubbedLink (brokenLink (.fresh (.free 255)) Hw.reset)).freeCount = 2048
    ∧ ((scrubbedLink (brokenLink (.fresh .held) Hw.reset)).link 0).val.next = .broken
    ∧ ((readLinkOf (brokenLink (.fresh .retired) Hw.reset)).link 0).val.next = .broken
    ∧ ((scrubbedLink (brokenLink ⟨.held, .double 0 0⟩ Hw.reset)).link 0).val.next = .broken
    ∧ (scrubbedLink (brokenLink ⟨.held, .double 0 0⟩ Hw.reset)).owner 0 = ⟨.retired, .none⟩ := by decide +kernel

/-- RESET PART in FAULT HOLD, with a poisoned record and one that is not. -/
theorem test_ResetPartClearsPart :
    Waits (passes .sup .resetPart [] (poisonedAt 23 faulted)) .sup .resetPart []
    ∧ isPoisoned (poisonedAt 23 faulted) 23 = true ∧ Hw.reset.undamaged 22
    ∧ answerOf .sup (after (.resetPart .sup []) (passes .sup .resetPart [] (poisonedAt 23 faulted))) = [0x54, 0, 0]
    ∧ (after (.resetPart .sup []) (passes .sup .resetPart [] (poisonedAt 23 faulted))).integ = Hw.reset.integ
    ∧ (after (.resetPart .sup []) (passes .sup .resetPart [] (poisonedAt 23 faulted))).pairTable.notices
        = ⟨List.finRange 24, List.finRange 24, List.finRange 24⟩
    ∧ (storedPair (after (.resetPart .sup []) (passes .sup .resetPart [] (poisonedAt 23 faulted))) 22).first
        = .fresh ⟨.disabled, 3, 1, 1⟩
    ∧ (storedPair (after (.resetPart .sup []) (passes .sup .resetPart [] (poisonedAt 23 faulted))) 23).first
        = .fresh ⟨.disabled, 3, 1, 0⟩ := by
  refine ⟨waits_passes _ _ _ _ rfl, by decide, by unfold Hw.undamaged; decide +kernel, ?_⟩
  decide +kernel

/-- Every group is enabled at port SUP, DONE of bus 0 is pending there, and the door input holds a level trigger's condition:
RESET PART leaves the door's flag and NOTICE; at port TST, whose group 7 is disabled, nothing is pending. -/
theorem test_ResetPartClearsPart_flags :
    let h := setSenseInput 3 { Hw.reset.sense[(3 : SenseIx)] with trigger := .high, accepted := .high }
      (raiseAt .sup (.done .bus0) (listening Hw.reset))
    (eventsOf h .sup).pending[(4 : Fin 8)] = 2 ∧ senseConditions h 2 = 1
    ∧ (eventsOf (after (.resetPart .sup []) (passes .sup .resetPart [] h)) .sup).pending = #v[0, 0, 1, 0, 0, 0, 0, 1]
    ∧ (eventsOf (after (.resetPart .sup []) (passes .sup .resetPart [] h)) .tst).pending = Vector.replicate 8 0 := by
  decide +kernel

/-- Pair 23 stands on bus 1 with a guard, pair 22 waits for bus 0, and pair 21 waits for THROUGH; slot 0 is free, or none. -/
def bound (slots : Vector (Option Move) 4) : Hw :=
  { Hw.reset with relay := { Hw.reset.relay with
      pairs := (Vector.replicate 24 ⟨.isolated, false, .isolated, .none, none⟩).set 23 ⟨.bus1, false, .bus1, .manual, none⟩
      slots
      guardSection := []
      normalSection := [⟨22, .bus0, .testBus⟩, ⟨21, .through, .testBus⟩] } }

/-- Every slot taken by a move of pair 0: all wait; and with one free a return move starts. -/
theorem test_ResetPartClearsPart_returns :
    (bound (Vector.replicate 4 none)).relay.queueGood
    ∧ (bound (Vector.replicate 4 none)).relay.boundFor 23 .bus1 ∧ (bound (Vector.replicate 4 none)).relay.boundFor 22 .bus0
    ∧ (∀ k, ¬ (bound (Vector.replicate 4 none)).relay.boundFor 21 k)
    ∧ (after (.resetPart .sup []) (passes .sup .resetPart [] (bound (Vector.replicate 4 (some ⟨0, .through, .testBus, 9⟩))))).relay.entries
        = [⟨23, .isolated, .relayUnit⟩, ⟨22, .through, .relayUnit⟩, ⟨21, .through, .relayUnit⟩]
    ∧ (after (.resetPart .sup []) (passes .sup .resetPart [] (bound (Vector.replicate 4 (some ⟨0, .through, .testBus, 9⟩))))).relay.slots
        = Vector.replicate 4 (some ⟨0, .through, .relayUnit, 9⟩)
    ∧ (after (.resetPart .sup []) (passes .sup .resetPart [] (bound (Vector.replicate 4 none)))).relay.asked 23 .isolated .relayUnit
    ∧ (storedPair (after (.resetPart .sup []) (passes .sup .resetPart [] (bound (Vector.replicate 4 none)))) 23).first.val.version
        = 2
    ∧ (storedPair (after (.resetPart .sup []) (passes .sup .resetPart [] (bound (Vector.replicate 4 none)))) 20).first.val.version
        = 1 := by
  refine ⟨?_, .inl (.inl rfl), .inr ⟨⟨22, .bus0, .testBus⟩, by decide +kernel, rfl, rfl⟩, fun k => ?_, ?_⟩
  · unfold Relay.queueGood Relay.entries
    decide +kernel
  · cases k <;> (unfold Relay.boundFor RelayPair.near; decide +kernel)
  · unfold Relay.asked
    decide +kernel

/-- A step that the invariants speak of: the machine right after reset lets a millisecond pass. -/
theorem test_reset_steps : step State.reset = .next { State.reset with hw := tick Hw.reset }
    ∧ step ⟨faulted, []⟩ = .next ⟨tick faulted, []⟩ ∧ faulted.integ.faultHold = true := ⟨rfl, rfl, rfl⟩

theorem test_reset_tablesSound : Hw.reset.tablesSound :=
  ⟨⟨⟨rfl, rfl⟩, rfl⟩, fun p => (by cases p <;> decide), rfl, by unfold Hw.exchangeShown; decide +kernel,
    by unfold Hw.shedEmpty; decide +kernel,
    fun k => (by cases k <;> exact ⟨List.nodup_nil, fun _ h => (by cases h), fun _ => rfl⟩),
    fun k h => (by cases k <;> cases h),
    fun p => (by cases p <;> exact ⟨rfl, rfl⟩), by unfold Hw.inRange; decide⟩

/-- Pair 23 in service, in neither eligible set: it moves to THROUGH in slot 3. -/
def homing : Hw :=
  let h := moving .unknown .through .relayUnit (serving 23 1 1 Hw.reset)
  { h with sched := Hw.reset.sched, line := Hw.reset.line }

/-- A pair joins the eligible sets at the end of its homing, and leaves them when it is selected, suspended or poisoned, its
queues then empty. -/
theorem test_StepKeepsTablesSound_pairs :
    homing.exchangeShown ∧ homing.shedEmpty
    ∧ (after (.settleTimerExpiry 3) (alone homing)).line.eligible[(23 : PairIx)] = true
    ∧ (after (.settleTimerExpiry 3) (alone homing)).exchangeShown
    ∧ (selectable 10).exchangeShown
    ∧ (after (.selectPair .tst [1, 23]) (passes .tst .selectPair [1, 23] (selectable 10))).line.eligible[(23 : PairIx)] = false
    ∧ (after (.selectPair .tst [1, 23]) (passes .tst .selectPair [1, 23] (selectable 10))).exchangeShown
    ∧ (pressed 4).exchangeShown ∧ (pressed 4).shedEmpty
    ∧ (after (.provision .trk [0, 2]) (passes .trk .provision [0, 2] (pressed 4))).exchangeShown
    ∧ (after (.provision .trk [0, 2]) (passes .trk .provision [0, 2] (pressed 4))).shedEmpty
    ∧ (scrubbed 0 (pressed 4)).exchangeShown ∧ (scrubbed 0 (pressed 4)).shedEmpty := by
  unfold Hw.exchangeShown Hw.shedEmpty
  decide +kernel

theorem test_reset_portsCoherent : Hw.reset.portsCoherent ∧ Hw.reset.requests = [] :=
  ⟨fun p => (by cases p <;> (unfold PortUnit.coherent; decide)), rfl⟩

theorem test_reset_powerSound : Hw.reset.powerSound := by
  unfold Hw.powerSound Hw.pairPowerSound
  decide +kernel

/-- Every relay THROUGH and at rest. -/
def settled : Hw :=
  { Hw.reset with relay := { Hw.reset.relay with
      pairs := Vector.replicate 24 ⟨.through, false, .through, .none, none⟩
      slots := Vector.replicate 4 none } }

theorem test_settled_relay_sound : settled.relay.sound := by
  refine ⟨fun k n m hn => ?_, fun n _ => ?_, fun n hn => ?_, fun i m hm => ?_, fun i j m o hm => ?_⟩
  · cases k <;> simp [settled, RelayPair.near, busPos] at hn
  · simp [settled]
  · simp [settled] at hn
  · simp [settled] at hm
  · simp [settled] at hm

end Sys2Proof.Tests
end

/-! PROOF. The read at address 3 (R19): what the byte returned is for an empty and for a waiting notice queue, and what
the read leaves of the state. -/

namespace Sys2Proof.Machine

/-- No pair waits: the byte of an absent pair (R19). -/
theorem optionalByte_oldestNotice_of_nil {h : Hw} {p : Port} (hq : h.pairTable.notices.get p = []) :
    optionalByte ((oldestNotice h p).map Fin.val) = 0xFF := by
  rw [oldestNotice, hq]
  rfl

/-- The pair at the front of the queue, whatever waits behind it (R16, R19). -/
theorem optionalByte_oldestNotice_of_cons {h : Hw} {p : Port} {n : PairIx} {rest : List PairIx}
    (hq : h.pairTable.notices.get p = n :: rest) :
    optionalByte ((oldestNotice h p).map Fin.val) = BitVec.ofNat 8 n.val := by
  rw [oldestNotice, hq]
  rfl

/-- Only the port's data byte and its notice queue differ after the read: the port write and the taking of the notice
do not touch each other's fields. -/
theorem noticeByte_eq (p : Port) (h : Hw) :
    noticeByte p h =
      { setPort p { portOf h p with dataOut := optionalByte ((oldestNotice h p).map Fin.val) } h with
        pairTable := (dropNotice p h).pairTable } := rfl

/-- The read asks nothing of the port's state or of FAULT HOLD (R19). -/
theorem exec_noticeRead (p : Port) (s : State) :
    exec (.noticeRead p) s = .next { s with hw := noticeByte p s.hw } := rfl

/-- Settles O11, by whether a notice waits in the port's queue. -/
theorem noticeReadTakesOldestEntry : Obligations.NoticeReadTakesOldestEntry := by
  unfold Obligations.NoticeReadTakesOldestEntry
  intro p s
  rw [exec_noticeRead, noticeByte_eq, dropNotice]
  cases hq : s.hw.pairTable.notices.get p with
  | nil => rw [optionalByte_oldestNotice_of_nil hq]
  | cons n rest => rw [optionalByte_oldestNotice_of_cons hq]

end Sys2Proof.Machine

/-! PROOF. SET SENSE (R149): the decoders of its settings, what its body answers and does to the input, and the answers
that its port receives, DENIED to a port other than SUP among them. -/

namespace Sys2Proof.Machine

/-! ### A frame that ends with its count, from a port without the privilege -/

/-- A write at address 0 touches its port's unit alone (R181). -/
theorem exec_frameByteWrite (p : Port) (b : Byte) (s : State) :
    exec (.frameByteWrite p b) s = .next (withPort s p ((portOf s.hw p).frameByte p b)) := rfl

/-- A count of 0 completes the frame, and the privilege is looked up before the command is passed (R182, R185). -/
theorem frameByte_count_zero_of_denied {p : Port} {u : PortUnit} {code : Byte} {c : Cmd}
    (hstate : u.state = .collecting) (hframe : u.frame = ⟨some code, none, []⟩)
    (hcode : cmdOfCode code = some c) (hadmits : admits p c = false) :
    u.frameByte p 0
      = { u with gapTimer := none, frame := ⟨some code, some 0, []⟩ }.answered code ⟨.denied, []⟩ := by
  simp [PortUnit.frameByte, PortUnit.collect, PortUnit.complete, hstate, hframe, hcode, hadmits]

theorem repliesPlain_answered (u : PortUnit) (echo : Byte) (code : AnswerCode) :
    (u.answered echo ⟨code, []⟩).repliesPlain echo (encodeAnswer code) := ⟨rfl, rfl, rfl, rfl⟩

/-- SET SENSE stands in R185's last row: SUP alone may issue it. -/
theorem admits_setSense_of_ne {p : Port} (hp : p ≠ .sup) : admits p .setSense = false := by
  cases p with
  | sup => exact absurd rfl hp
  | trk => rfl
  | tst => rfl

/-! ### Answers of commands that send no request -/

/-- The taking of a passed command whose body sends no request and leaves the descriptors: the port has the answer, and
the part is what the body made of it. -/
theorem taking_eq_answered {c : Cmd} {p : Port} {args : List Byte} {b : Body} {s : State} {h : Hw} {r : Hw → Reply}
    {code : AnswerCode} {data : List Byte} (hwaits : Waits s p c args) (hbody : b s.hw = (h, r))
    (hrequests : h.requests = []) (hdesc : h.store.descriptors = s.hw.store.descriptors)
    (hreply : r h = ⟨code, data⟩) :
    taking c p args b s = .next (answered s p c code data h) := by
  obtain ⟨hpassed, -⟩ := hwaits
  have htake := takeCommand_quiet c p args b s.hw hpassed (by rw [hbody]; exact hrequests)
    (by rw [hbody]; exact hdesc)
  rw [hbody] at htake
  rw [taking, goOn, htake, answered, ← hreply]

/-- A command that only answers a code leaves the part as it was. -/
theorem taking_of_answerOnly {c : Cmd} {p : Port} {args : List Byte} {b : Body} {s : State} {code : AnswerCode}
    (hwaits : Waits s p c args) (hbody : b s.hw = answerOnly code s.hw) :
    taking c p args b s = .next (answered s p c code [] s.hw) :=
  taking_eq_answered hwaits hbody hwaits.2 rfl rfl

theorem unlessFault_of_hold {b : Body} {h : Hw} (hf : h.integ.faultHold = true) :
    unlessFault b h = answerOnly .fault h := if_pos hf

theorem unlessFault_of_noHold {b : Body} {h : Hw} (hf : h.integ.faultHold = false) : unlessFault b h = b h :=
  if_neg (by simp [hf])

/-! ### Decoders (R193): the values they name, and the bytes that name none -/

theorem decodeFin_ofNat {n : Nat} (hn : n ≤ 256) (i : Fin n) : decodeFin n (BitVec.ofNat 8 i.val) = some i := by
  have hi : (BitVec.ofNat 8 i.val).toNat = i.val := by
    rw [BitVec.toNat_ofNat]
    exact Nat.mod_eq_of_lt (by omega)
  simp [decodeFin, hi]

theorem decodeFin_eq_none {n : Nat} {b : Byte} (hb : n ≤ b.toNat) : decodeFin n b = none :=
  dif_neg (by omega)

theorem decodeBool_flagByte (x : Bool) : decodeBool (flagByte x) = some x := by cases x <;> rfl

theorem decodePeriod_encodePeriod (x : SamplePeriod) : decodePeriod (encodePeriod x) = some x := by cases x <;> rfl

theorem decodeTrigger_encodeTrigger (x : Trigger) : decodeTrigger (encodeTrigger x) = some x := by cases x <;> rfl

theorem ne_of_toNat_le_of_lt {b k : Byte} {m : Nat} (hk : k.toNat ≤ m) (hb : m < b.toNat) : b ≠ k := by
  rintro rfl
  omega

theorem decodeBool_eq_none {b : Byte} (hb : 1 < b.toNat) : decodeBool b = none := by
  have hne (k : Byte) (hk : k.toNat ≤ 1) : b ≠ k := ne_of_toNat_le_of_lt hk hb
  rw [decodeBool, if_neg (hne 0 (by decide)), if_neg (hne 1 (by decide))]

theorem decodePeriod_eq_none {b : Byte} (h1 : b ≠ 1) (h4 : b ≠ 4) (h16 : b ≠ 16) (h64 : b ≠ 64) :
    decodePeriod b = none := by
  rw [decodePeriod, if_neg h1, if_neg h4, if_neg h16, if_neg h64]

theorem decodeTrigger_eq_none {b : Byte} (hb : 4 < b.toNat) : decodeTrigger b = none := by
  have hne (k : Byte) (hk : k.toNat ≤ 4) : b ≠ k := ne_of_toNat_le_of_lt hk hb
  rw [decodeTrigger, if_neg (hne 0 (by decide)), if_neg (hne 1 (by decide)), if_neg (hne 2 (by decide)),
    if_neg (hne 3 (by decide)), if_neg (hne 4 (by decide))]

section OptionalSettings

variable {α : Type} {decode : Byte → Option α} {encode : α → Byte} {o : Option Byte} {value held : α}

theorem optionalOk_eq_false {b : Byte} (ho : o = some b) (hb : decode b = none) : optionalOk decode o = false := by
  rw [ho, optionalOk, hb]
  rfl

/-- A setting that is omitted, or given by the byte of its value, is in order. -/
theorem optionalOk_of_setting (hdecode : ∀ v, decode (encode v) = some v)
    (ho : (o = none ∧ value = held) ∨ o = some (encode value)) : optionalOk decode o = true := by
  obtain ⟨rfl, -⟩ | rfl := ho
  · rfl
  · rw [optionalOk, hdecode]
    rfl

/-- The value after the command is the one given, or the one held when the setting is omitted. -/
theorem getD_decode_of_setting (hdecode : ∀ v, decode (encode v) = some v)
    (ho : (o = none ∧ value = held) ∨ o = some (encode value)) : (o.bind decode).getD held = value := by
  obtain ⟨rfl, rfl⟩ | rfl := ho
  · rfl
  · rw [Option.bind_some, hdecode, Option.getD_some]

/-- A setting in order decodes to nothing only when it is omitted. -/
theorem decode_eq_none_iff_of_setting (hdecode : ∀ v, decode (encode v) = some v)
    (ho : (o = none ∧ value = held) ∨ o = some (encode value)) : o.bind decode = none ↔ o = none := by
  obtain ⟨rfl, -⟩ | rfl := ho <;> simp [hdecode]

end OptionalSettings

/-! ### What SET SENSE does to the input (R148, R149) -/

section ApplySense

variable (f : Option Bool) (q : Option SamplePeriod) (t : Option Trigger) (x : SenseInput)

/-- Each setting given takes its value, and the accepted level stays. -/
theorem applySense_fields :
    (applySense f q t x).filter = f.getD x.filter ∧ (applySense f q t x).period = q.getD x.period
      ∧ (applySense f q t x).trigger = t.getD x.trigger ∧ (applySense f q t x).accepted = x.accepted := by
  cases f <;> cases q <;> exact ⟨rfl, rfl, rfl, rfl⟩

/-- Whether a filter or a period is given, and not whether it differs, decides on the run and the timer. -/
theorem applySense_eq :
    applySense f q t x
      = if f = none ∧ q = none then { x with trigger := t.getD x.trigger }
        else { x with
          filter := f.getD x.filter, period := q.getD x.period, trigger := t.getD x.trigger
          run := none, timer := periodMs (q.getD x.period) } := by
  cases f <;> cases q <;> rfl

end ApplySense

theorem levelConditionHolds_iff (x : SenseInput) :
    levelConditionHolds x = true
      ↔ (x.trigger = .high ∧ x.accepted = .high) ∨ (x.trigger = .low ∧ x.accepted = .low) := by
  unfold levelConditionHolds
  cases x.trigger <;> simp

section PostNewTrigger

variable (i : SenseIx) (given : Bool) (h : Hw)

/-- Posting touches the event unit alone. -/
@[simp] theorem postNewTrigger_sense : (postNewTrigger i given h).sense = h.sense := by
  unfold postNewTrigger
  split <;> rfl

@[simp] theorem postNewTrigger_requests : (postNewTrigger i given h).requests = h.requests := by
  unfold postNewTrigger
  split <;> rfl

@[simp] theorem postNewTrigger_store : (postNewTrigger i given h).store = h.store := by
  unfold postNewTrigger
  split <;> rfl

/-- The flag is set exactly when the input as written now has a level trigger whose condition holds (R148). -/
theorem postNewTrigger_setSenseInput (x : SenseInput) :
    postNewTrigger i given (setSenseInput i x h)
      = if given = true ∧ ((x.trigger = .high ∧ x.accepted = .high) ∨ (x.trigger = .low ∧ x.accepted = .low))
        then post (senseFlag i) (setSenseInput i x h) else setSenseInput i x h := by
  simp only [postNewTrigger, setSenseInput_same, Bool.and_eq_true, levelConditionHolds_iff]

end PostNewTrigger

/-! ### The body of SET SENSE, an equation per case -/

/-- The three settings of a SET SENSE are each omitted or name a value (R149). -/
def settingsInOrder (settings : List Byte) : Bool :=
  optionalOk decodeBool settings[0]? && optionalOk decodePeriod settings[1]? && optionalOk decodeTrigger settings[2]?

section Body

variable {a : Byte} {rest : List Byte} {h : Hw}

theorem setSenseBody_nil (hf : h.integ.faultHold = false) : setSenseBody [] h = answerOnly .missing h :=
  unlessFault_of_noHold hf

theorem setSenseBody_of_no_input (hf : h.integ.faultHold = false) (ha : decodeFin 12 a = none) :
    setSenseBody (a :: rest) h = answerOnly .range h := by
  simp [setSenseBody, unlessFault_of_noHold hf, arg, ha]

theorem setSenseBody_of_bad_setting (hf : h.integ.faultHold = false) (hs : settingsInOrder rest = false) :
    setSenseBody (a :: rest) h = answerOnly .range h := by
  cases ha : decodeFin 12 a with
  | none => exact setSenseBody_of_no_input hf ha
  | some i =>
    unfold settingsInOrder at hs
    simp only [setSenseBody, unlessFault_of_noHold hf, arg, List.getElem?_cons_zero, List.getElem?_cons_succ, ha, hs,
      Bool.false_eq_true, if_false]

theorem setSenseBody_of_settings {i : SenseIx} (hf : h.integ.faultHold = false) (ha : decodeFin 12 a = some i)
    (hs : settingsInOrder rest = true) :
    setSenseBody (a :: rest) h
      = (postNewTrigger i (rest[2]?).isSome
          (setSenseInput i (applySense ((rest[0]?).bind decodeBool) ((rest[1]?).bind decodePeriod)
            ((rest[2]?).bind decodeTrigger) h.sense[i]) h), senseReply i) := by
  unfold settingsInOrder at hs
  simp only [setSenseBody, unlessFault_of_noHold hf, arg, List.getElem?_cons_zero, List.getElem?_cons_succ, ha, hs,
    if_true]

/-- RANGE, whichever argument names nothing (R149). -/
theorem setSenseBody_range (hf : h.integ.faultHold = false)
    (hbad : 11 < a.toNat ∨ (∃ b, rest[0]? = some b ∧ 1 < b.toNat)
      ∨ (∃ b, rest[1]? = some b ∧ b ≠ 1 ∧ b ≠ 4 ∧ b ≠ 16 ∧ b ≠ 64) ∨ ∃ b, rest[2]? = some b ∧ 4 < b.toNat) :
    setSenseBody (a :: rest) h = answerOnly .range h := by
  obtain ha | ⟨b, hb, hgt⟩ | ⟨b, hb, h1, h4, h16, h64⟩ | ⟨b, hb, hgt⟩ := hbad
  case inl => exact setSenseBody_of_no_input hf (decodeFin_eq_none ha)
  all_goals refine setSenseBody_of_bad_setting hf ?_
  · simp [settingsInOrder, optionalOk_eq_false hb (decodeBool_eq_none hgt)]
  · simp [settingsInOrder, optionalOk_eq_false hb (decodePeriod_eq_none h1 h4 h16 h64)]
  · simp [settingsInOrder, optionalOk_eq_false hb (decodeTrigger_eq_none hgt)]

end Body

/-! ### The answers -/

theorem exec_setSense (p : Port) (args : List Byte) (s : State) :
    exec (.setSense p args) s = taking .setSense p args (setSenseBody args) s := rfl

/-- The answer shows the input as it now stands, which the posting of its flag leaves. -/
theorem senseReply_postNewTrigger (i : SenseIx) (given : Bool) (x : SenseInput) (h : Hw) :
    senseReply i (postNewTrigger i given (setSenseInput i x h))
      = ⟨.ok, [flagByte x.filter, encodePeriod x.period, encodeTrigger x.trigger, encodeLevel x.accepted]⟩ := by
  simp only [senseReply, postNewTrigger_sense, setSenseInput_same]

/-- A SET SENSE in order writes its input, posts the flag where a trigger was given, and answers the input. -/
theorem exec_setSense_ok {p : Port} {a : Byte} {rest : List Byte} {s : State} {i : SenseIx} {x : SenseInput}
    (hwaits : Waits s p .setSense (a :: rest)) (hf : s.hw.integ.faultHold = false) (ha : decodeFin 12 a = some i)
    (hs : settingsInOrder rest = true)
    (hx : applySense ((rest[0]?).bind decodeBool) ((rest[1]?).bind decodePeriod) ((rest[2]?).bind decodeTrigger)
      s.hw.sense[i] = x) :
    exec (.setSense p (a :: rest)) s = .next (answered s p .setSense .ok
      [flagByte x.filter, encodePeriod x.period, encodeTrigger x.trigger, encodeLevel x.accepted]
      (postNewTrigger i (rest[2]?).isSome (setSenseInput i x s.hw))) := by
  have hbody := setSenseBody_of_settings hf ha hs
  rw [hx] at hbody
  have hrequests : s.hw.requests = [] := hwaits.2
  rw [exec_setSense]
  exact taking_eq_answered hwaits hbody (by simp [hrequests]) (by simp) (senseReply_postNewTrigger i _ x s.hw)

/-- Settles O50: DENIED at the frame's count byte, the refusals from the body's equations, and the settings given read
through their decoders. -/
theorem setSenseSetsInput : Obligations.SetSenseSetsInput := by
  unfold Obligations.SetSenseSetsInput
  refine ⟨fun p s hp hstate hframe _ => ?denied, fun p args s hwaits hf => ?fault, fun p args s hwaits hf =>
    ⟨fun hargs => ?missing, fun a rest hargs hbad => ?range,
      fun i rest filter period trigger x h hargs hfilter hperiod htrigger hx hh => ?ok⟩⟩
  case denied =>
    refine ⟨_, exec_frameByteWrite p 0 s, ?_⟩
    rw [frameByte_count_zero_of_denied hstate hframe rfl (admits_setSense_of_ne hp)]
    exact repliesPlain_answered _ _ .denied
  case fault =>
    rw [exec_setSense]
    exact taking_of_answerOnly hwaits (unlessFault_of_hold hf)
  case missing =>
    subst hargs
    rw [exec_setSense]
    exact taking_of_answerOnly hwaits (setSenseBody_nil hf)
  case range =>
    subst hargs
    rw [exec_setSense]
    exact taking_of_answerOnly hwaits (setSenseBody_range hf hbad)
  case ok =>
    subst hargs
    have hs : settingsInOrder rest = true := by
      simp only [settingsInOrder, optionalOk_of_setting decodeBool_flagByte hfilter,
        optionalOk_of_setting decodePeriod_encodePeriod hperiod,
        optionalOk_of_setting decodeTrigger_encodeTrigger htrigger, Bool.and_self]
    have hfilter' := getD_decode_of_setting decodeBool_flagByte hfilter
    have hperiod' := getD_decode_of_setting decodePeriod_encodePeriod hperiod
    have htrigger' := getD_decode_of_setting decodeTrigger_encodeTrigger htrigger
    have happly : applySense ((rest[0]?).bind decodeBool) ((rest[1]?).bind decodePeriod)
        ((rest[2]?).bind decodeTrigger) s.hw.sense[i] = x := by
      simp only [applySense_eq, hfilter', hperiod', htrigger', hx,
        decode_eq_none_iff_of_setting decodeBool_flagByte hfilter,
        decode_eq_none_iff_of_setting decodePeriod_encodePeriod hperiod]
    have hfields := applySense_fields ((rest[0]?).bind decodeBool) ((rest[1]?).bind decodePeriod)
      ((rest[2]?).bind decodeTrigger) s.hw.sense[i]
    rw [happly, hfilter', hperiod', htrigger'] at hfields
    obtain ⟨hxfilter, hxperiod, hxtrigger, hxaccepted⟩ := hfields
    have hwritten : setSenseInput i x s.hw = h := hh.symm
    rw [exec_setSense_ok hwaits hf (decodeFin_ofNat (by decide) i) hs happly, postNewTrigger_setSenseInput, hxfilter,
      hxperiod, hxtrigger, hxaccepted, hwritten]
    rfl

end Sys2Proof.Machine
